-- ==== Sys2Proof/Word.lean ====
section
/-! DEFINITION. The two word types of the FXU: the 8-bit command word (R44) and the 64-bit buses A, B and RES (R24). -/

namespace Sys2Proof

/-- A command word `CMD` (R44). -/
abbrev Cmd := BitVec 8

/-- The value of an operand bus `A` or `B`, or of the result bus `RES` (R24). -/
abbrev Bus := BitVec 64

end Sys2Proof
end

