-- ==== Sys2Proof/Config.lean ====
section
/-! DEFINITION. What an implementation of the FXU fixes (the parameters of R8) and the values the spec leaves open.
A constant with no body is a free value: nothing in Lean can evaluate it, so what is proved holds whatever it is. -/

namespace Sys2Proof.Config

/-- DEPTH - 1. DEPTH is OPEN, an integer >= 1 (R8, R29, D20). -/
opaque depthPred : Nat

/-- DEPTH, the number of accepted requests whose responses are not yet delivered, >= 1 (R8). -/
def depth : Nat := depthPred + 1

/-- LAT - 1 for the request (cmd, a, b) that transfers at edge number `tick`. LAT is OPEN, an integer >= 1 (R8, R30,
D19), and may differ from request to request, "for different commands or operands" too (R109). Being a natural number
it is finite, as R30 asks. -/
opaque latencyExtra (tick : Nat) (cmd : Cmd) (a b : Bus) : Nat

/-- How many further edges `req_ready` is held low, drawn at edge number `tick`: "any other finite time" (R29, R30).
`offered` is `req_valid` after that edge, on which `req_ready` may depend (R26). -/
opaque reqStall (tick : Nat) (offered : Bool) : Nat

/-- `rsp_res` before edge number `tick` while `rsp_valid = 0`: unspecified (R27, R32). -/
opaque idleRes (tick : Nat) : Bus

/-- `rsp_err` before edge number `tick` while `rsp_valid = 0`: unspecified (R27, R32). -/
opaque idleErr (tick : Nat) : Bool

/-- `req_ready` before the first reset after power-up: unspecified (R32, R105). -/
opaque unresetReady (tick : Nat) : Bool

/-- `rsp_valid` before the first reset after power-up: unspecified (R32, R105). -/
opaque unresetValid (tick : Nat) : Bool

/-- The stale contents `Q` may have at power-up (R32). -/
opaque powerUpQueue : List (Bus × Bool)

/-- The sign of a NaN (R14: the payload of a NaN is not observable; 93_implementation_defined.md row 12). -/
opaque nanSign : Bool

/-- Selects the payload of a NaN (R14; 93_implementation_defined.md row 12). -/
opaque nanPayload : Nat

/-- NAN_RAW, the raw result of F2X on a NaN operand: fixed at 0 for every FXU (R8, R16, D11). -/
def nanRaw : Nat := 0

end Sys2Proof.Config
end

