-- ==== Sys2Proof/Syntax.lean ====
section
/-! DEFINITION. The commands of the FXU: one constructor for each of the 23 rows of spec/opcode_table.json (R48), with
the widths, float formats, command-word fields and assembler names they are described by. -/

namespace Sys2Proof

/-- The fractional width W a command works at (R3, R45). -/
inductive FracWidth where
  | w8
  | w16
deriving DecidableEq, Repr

/-- The number of bits of a fractional value (R3). -/
def FracWidth.bits : FracWidth → Nat
  | .w8 => 8
  | .w16 => 16

/-- MAX(W) = 2^W - 1 (R4). -/
def FracWidth.maxRaw (w : FracWidth) : Nat := 1 <<< w.bits - 1

/-- The float format F of F2X and X2F (R12, R46). -/
inductive FloatFmt where
  | f32
  | f64
deriving DecidableEq, Repr

/-- The four fields of a command word (R44). -/
structure CmdFields where
  op  : BitVec 4
  rsv : BitVec 2
  f   : Bool
  w   : Bool
deriving DecidableEq, Repr

/-- The four classes of illegal command words (R52). -/
inductive IllegalClass where
  /-- OP = 0x0. -/
  | reservedOpZero
  /-- OP = 0xC to 0xF. -/
  | reservedOpHigh
  /-- RSV != 00 under an OP of 0x1 to 0xB (R47). -/
  | reservedBits
  /-- F = 1 or W = 1 where the OP requires 0 (R45, R46). -/
  | wrongForm
deriving DecidableEq, Repr

/-- The 23 legal commands (R48). None has an operand of its own: operands travel on the buses (R49). -/
inductive Instr where
  | add8
  | add16
  | sub8
  | sub16
  | mulw
  | f2x8f32
  | f2x16f32
  | f2x8f64
  | f2x16f64
  | x2f8f32
  | x2f16f32
  | x2f8f64
  | x2f16f64
  | widen
  | narrow
  | inv8
  | inv16
  | min8
  | min16
  | max8
  | max16
  | cmp8
  | cmp16
deriving DecidableEq, Repr

/-- Every command, in the opcode table's order. -/
def Instr.all : List Instr :=
  [.add8, .add16, .sub8, .sub16, .mulw, .f2x8f32, .f2x16f32, .f2x8f64, .f2x16f64, .x2f8f32, .x2f16f32, .x2f8f64,
   .x2f16f64, .widen, .narrow, .inv8, .inv16, .min8, .min16, .max8, .max16, .cmp8, .cmp16]

/-- The fields of a command's word, row by row of the opcode map (R48; RSV = 00 by R47). -/
def Instr.fields : Instr → CmdFields
  | .add8     => { op := 0x1, rsv := 0, f := false, w := false }
  | .add16    => { op := 0x1, rsv := 0, f := false, w := true }
  | .sub8     => { op := 0x2, rsv := 0, f := false, w := false }
  | .sub16    => { op := 0x2, rsv := 0, f := false, w := true }
  | .mulw     => { op := 0x3, rsv := 0, f := false, w := false }
  | .f2x8f32  => { op := 0x4, rsv := 0, f := false, w := false }
  | .f2x16f32 => { op := 0x4, rsv := 0, f := false, w := true }
  | .f2x8f64  => { op := 0x4, rsv := 0, f := true, w := false }
  | .f2x16f64 => { op := 0x4, rsv := 0, f := true, w := true }
  | .x2f8f32  => { op := 0x5, rsv := 0, f := false, w := false }
  | .x2f16f32 => { op := 0x5, rsv := 0, f := false, w := true }
  | .x2f8f64  => { op := 0x5, rsv := 0, f := true, w := false }
  | .x2f16f64 => { op := 0x5, rsv := 0, f := true, w := true }
  | .widen    => { op := 0x6, rsv := 0, f := false, w := false }
  | .narrow   => { op := 0x7, rsv := 0, f := false, w := false }
  | .inv8     => { op := 0x8, rsv := 0, f := false, w := false }
  | .inv16    => { op := 0x8, rsv := 0, f := false, w := true }
  | .min8     => { op := 0x9, rsv := 0, f := false, w := false }
  | .min16    => { op := 0x9, rsv := 0, f := false, w := true }
  | .max8     => { op := 0xA, rsv := 0, f := false, w := false }
  | .max16    => { op := 0xA, rsv := 0, f := false, w := true }
  | .cmp8     => { op := 0xB, rsv := 0, f := false, w := false }
  | .cmp16    => { op := 0xB, rsv := 0, f := false, w := true }

/-- The assembler mnemonic (R54). -/
def Instr.mnemonic : Instr → String
  | .add8     => "ADD.8"
  | .add16    => "ADD.16"
  | .sub8     => "SUB.8"
  | .sub16    => "SUB.16"
  | .mulw     => "MULW"
  | .f2x8f32  => "F2X.8.F32"
  | .f2x16f32 => "F2X.16.F32"
  | .f2x8f64  => "F2X.8.F64"
  | .f2x16f64 => "F2X.16.F64"
  | .x2f8f32  => "X2F.8.F32"
  | .x2f16f32 => "X2F.16.F32"
  | .x2f8f64  => "X2F.8.F64"
  | .x2f16f64 => "X2F.16.F64"
  | .widen    => "WIDEN"
  | .narrow   => "NARROW"
  | .inv8     => "INV.8"
  | .inv16    => "INV.16"
  | .min8     => "MIN.8"
  | .min16    => "MIN.16"
  | .max8     => "MAX.8"
  | .max16    => "MAX.16"
  | .cmp8     => "CMP.8"
  | .cmp16    => "CMP.16"

/-- How many bits of `A` a command reads, from bit 0 (R49). -/
def Instr.bitsOfA : Instr → Nat
  | .add8 | .sub8 | .mulw | .x2f8f32 | .x2f8f64 | .widen | .inv8 | .min8 | .max8 | .cmp8 => 8
  | .add16 | .sub16 | .x2f16f32 | .x2f16f64 | .narrow | .inv16 | .min16 | .max16 | .cmp16 => 16
  | .f2x8f32 | .f2x16f32 => 32
  | .f2x8f64 | .f2x16f64 => 64

/-- How many bits of `B` a command reads, from bit 0; 0 where it reads nothing of `B` (R49). -/
def Instr.bitsOfB : Instr → Nat
  | .add8 | .sub8 | .mulw | .min8 | .max8 | .cmp8 => 8
  | .add16 | .sub16 | .min16 | .max16 | .cmp16 => 16
  | .f2x8f32 | .f2x16f32 | .f2x8f64 | .f2x16f64 | .x2f8f32 | .x2f16f32 | .x2f8f64 | .x2f16f64 | .widen | .narrow
  | .inv8 | .inv16 => 0

/-- How many bits wide a command's result is; `RES` is 0 above them (R50). -/
def Instr.resultBits : Instr → Nat
  | .cmp8 | .cmp16 => 3
  | .add8 | .sub8 | .f2x8f32 | .f2x8f64 | .narrow | .inv8 | .min8 | .max8 => 8
  | .add16 | .sub16 | .f2x16f32 | .f2x16f64 | .mulw | .widen | .inv16 | .min16 | .max16 => 16
  | .x2f8f32 | .x2f16f32 => 32
  | .x2f8f64 | .x2f16f64 => 64

end Sys2Proof
end

