-- ==== Sys2Proof/WellFormed.lean ====
section
/-! DEFINITION. Which command words are legal (R45 to R48, R52). Every operand value is legal (R5), so this is the only
check there is. -/

namespace Sys2Proof

/-- The class of illegal word that the fields fall in, none for a legal word (R52). -/
def CmdFields.illegalClass (c : CmdFields) : Option IllegalClass :=
  if c.op = 0x0 then some .reservedOpZero
  else if 0xC ≤ c.op then some .reservedOpHigh
  else if c.rsv ≠ 0 then some .reservedBits
  else if c.f = true ∧ c.op ≠ 0x4 ∧ c.op ≠ 0x5 then some .wrongForm
  else if c.w = true ∧ (c.op = 0x3 ∨ c.op = 0x6 ∨ c.op = 0x7) then some .wrongForm
  else none

/-- The fields are those of a legal command word. -/
def CmdFields.wellFormed (c : CmdFields) : Bool := c.illegalClass.isNone

/-- A command is well formed when its word is legal. -/
def Instr.wellFormed (i : Instr) : Bool := i.fields.wellFormed

end Sys2Proof
end

