-- ==== Sys2Proof/Decode.lean ====
section
/-! DEFINITION. The decoder of command words, total on all 256 and rejecting the illegal ones by their class (R44 to
R48, R51, R52), and the encoder. -/

namespace Sys2Proof

/-- The fields of a command word: OP = CMD[7:4], RSV = CMD[3:2], F = CMD[1], W = CMD[0] (R11, R44). -/
def cmdFields (cmd : Cmd) : CmdFields :=
  { op := cmd.extractLsb' 4 4, rsv := cmd.extractLsb' 2 2, f := cmd.getLsbD 1, w := cmd.getLsbD 0 }

/-- The command word with the given fields (R44). -/
def packFields (c : CmdFields) : Cmd :=
  c.op ++ c.rsv ++ BitVec.ofBool c.f ++ BitVec.ofBool c.w

/-- The command that OP, F and W select when RSV = 00 (R48); none where the opcode map has no entry. -/
def selectCommand (op : Nat) (f w : Bool) : Option Instr :=
  match op, f, w with
  | 0x1, false, false => some .add8
  | 0x1, false, true  => some .add16
  | 0x2, false, false => some .sub8
  | 0x2, false, true  => some .sub16
  | 0x3, false, false => some .mulw
  | 0x4, false, false => some .f2x8f32
  | 0x4, false, true  => some .f2x16f32
  | 0x4, true,  false => some .f2x8f64
  | 0x4, true,  true  => some .f2x16f64
  | 0x5, false, false => some .x2f8f32
  | 0x5, false, true  => some .x2f16f32
  | 0x5, true,  false => some .x2f8f64
  | 0x5, true,  true  => some .x2f16f64
  | 0x6, false, false => some .widen
  | 0x7, false, false => some .narrow
  | 0x8, false, false => some .inv8
  | 0x8, false, true  => some .inv16
  | 0x9, false, false => some .min8
  | 0x9, false, true  => some .min16
  | 0xA, false, false => some .max8
  | 0xA, false, true  => some .max16
  | 0xB, false, false => some .cmp8
  | 0xB, false, true  => some .cmp16
  | _, _, _ => none

/-- Decodes a command word, or says which class of illegal word it is (R51, R52). The check comes before any operation
(R91). No legal word reaches the last case: the opcode map has an entry for every word the check lets through. -/
def decode (cmd : Cmd) : Except IllegalClass Instr :=
  let c := cmdFields cmd
  match c.illegalClass with
  | some k => .error k
  | none =>
    match selectCommand c.op.toNat c.f c.w with
    | some i => .ok i
    | none => .error .wrongForm

/-- The command word of a command (R48). -/
def encode (i : Instr) : Cmd := packFields i.fields

/-- The command the decoder reads from a table word of `nbits` bits. Every command is exactly one 8-bit word (R53). -/
def decodeTableWord (nbits w : Nat) : Option Instr :=
  if nbits = 8 ∧ w < 256 then
    match decode (BitVec.ofNat 8 w) with
    | .ok i => some i
    | .error _ => none
  else none

end Sys2Proof
end

