-- ==== Sys2Proof/Machine/State.lean ====
section
/-! DEFINITION. The state of the FXU and of the wires it stands on: the queue of responses in flight (R29), the pins
(R24), what the host will drive next, and the history of what host and FXU exchanged. -/

namespace Sys2Proof.Machine

/-- A response: the pair (RES, ERR) (R25). -/
structure Response where
  res : Bus
  err : Bool
deriving DecidableEq, Repr

/-- A request: the triple (CMD, A, B) captured together at its transfer edge (R26, R35). -/
structure Request where
  cmd : Cmd
  a   : Bus
  b   : Bus
deriving DecidableEq, Repr

/-- One entry of `Q` (R29): a response not yet delivered, and how many further edges must pass before it may become
valid (LAT - 1 when its request transfers, R30). -/
structure InFlight where
  rsp  : Response
  wait : Nat
deriving DecidableEq, Repr

/-- The input pins at a rising edge (R24), as the host drives them. `undriven` says that some bit of `req_cmd`, `req_a`
or `req_b` is driven neither to 0 nor to 1 (duty 3 of R107). -/
structure Pins where
  rst      : Bool
  reqValid : Bool
  cmd      : Cmd
  a        : Bus
  b        : Bus
  undriven : Bool
  rspReady : Bool
deriving DecidableEq, Repr

/-- All pins low. -/
def Pins.low : Pins :=
  { rst := false, reqValid := false, cmd := 0, a := 0, b := 0, undriven := false, rspReady := false }

/-- The request on the pins. -/
def Pins.request (p : Pins) : Request := { cmd := p.cmd, a := p.a, b := p.b }

/-- Whether a reset edge has come since power-up. Before it the outputs and `Q` are unspecified (R32, R105). -/
inductive Phase where
  | unreset
  | running
deriving DecidableEq, Repr

/-- A fault recorded against the host's program. The FXU answers and goes on (R90). -/
inductive ProgramFault where
  | illegalCommand
deriving DecidableEq, Repr

/-- What can be seen at the pins, event by event. -/
inductive Event where
  /-- A request transferred (R26). -/
  | accepted (r : Request)
  /-- A response transferred: the FXU emitted it to the host (R27, R31). -/
  | delivered (r : Response)
  /-- The model's record of a fault of the host's program (R90). -/
  | programFault (f : ProgramFault)
  /-- An edge with `rst = 1` (R103). -/
  | reset
deriving DecidableEq, Repr

/-- The machine. `q` is the FXU's only state (R29); with it stand the pins and the model's own fields. -/
structure State where
  /-- The in-flight queue `Q`, oldest first (R29). -/
  q        : List InFlight
  /-- Whether the FXU has been reset since power-up (R105). -/
  phase    : Phase
  /-- Edges still to pass before the FXU offers `req_ready` (R29, R30). -/
  readyIn  : Nat
  /-- The input pins at the coming edge (R24). -/
  pins     : Pins
  /-- The request offered at the last edge and not transferred, which the host must hold (R26, R107). -/
  held     : Option Request
  /-- What the host drives at the edges after the coming one. -/
  upcoming : List Pins
  /-- The number of edges so far; it indexes the free values of Config. -/
  tick     : Nat
  /-- What host and FXU have exchanged, newest first. -/
  trace    : List Event
deriving DecidableEq, Repr

/-- Why the machine stops. Both reasons are broken host duties, after which "the FXU's response to that request is not
specified" (R107); 93_implementation_defined.md row 5 asks for a fault. Both are safe: the model stops where the
hardware goes on in a way the spec does not give. -/
inductive Fault where
  /-- Raised by `step` when a request offered at the last edge and not transferred is withdrawn or changed (R26, duty 2
  of R107). Safe. -/
  | requestNotHeld
  /-- Raised by `step` when `req_valid = 1` and some bit of the request buses is not driven (R26, duty 3 of R107).
  Safe. -/
  | requestUndriven
deriving DecidableEq, Repr

/-- Why an instruction has no meaning. No instruction of this model is refused. -/
inductive Refusal where
  /-- Would be raised by an arm of `exec` whose instruction has no meaning yet; no arm does so. Safe. -/
  | notModelled (mnemonic : String)
deriving DecidableEq, Repr

/-- The machine right after reset: `Q` empty (R32, R103), the pins low and nothing more to be driven (the host's, notes
entry 1), `req_ready` unspecified (R32), so its delay is a free value. -/
def State.reset : State :=
  { q := [], phase := .running, readyIn := Config.reqStall 0 false, pins := Pins.low, held := none, upcoming := [],
    tick := 1, trace := [] }

/-- The machine at power-up: no reset has come, and `Q` may hold anything (R32, R105). DESIGN CHOICE (notes entry 1):
the spec gives no value for the input pins at power-up, since the host drives them, and nothing of what it drives
later; here all pins are low and nothing further is driven, so from this state `rst` never rises. A host that applies
reset, as R105 asks, is this state with other `pins` or `upcoming`. -/
def State.powerUp : State :=
  { q := Config.powerUpQueue.map fun e => { rsp := { res := e.1, err := e.2 }, wait := 0 },
    phase := .unreset, readyIn := Config.reqStall 0 false, pins := Pins.low, held := none, upcoming := [],
    tick := 0, trace := [] }

end Sys2Proof.Machine
end

