-- ==== Sys2Proof/Machine/Operands.lean ====
section
/-! DEFINITION. The operand fields of the buses and the assembly of a result (R9, R49, R50). -/

namespace Sys2Proof.Machine

/-- 2 ^ n, as a shift: Lean's evaluator computes a shift of any size. -/
def pow2 (n : Nat) : Nat := 1 <<< n

/-- `v[hi:lo]`: bits hi down to lo of a bus, inclusive, read as an unsigned integer (R9). -/
def slice (v : Bus) (hi lo : Nat) : Nat := v.toNat / pow2 lo % pow2 (hi + 1 - lo)

/-- The Frac(W) operand on a bus: its bits W-1 down to 0; the other bits are ignored (R49). -/
def fracOperand (w : FracWidth) (v : Bus) : Nat := slice v (w.bits - 1) 0

/-- `zext_64(r)` of a result (R9, R50). -/
def zext64 (r : Nat) : Bus := BitVec.ofNat 64 r

end Sys2Proof.Machine
end

