-- ==== Sys2Proof/Machine/Ops.lean ====
section
/-! DEFINITION. The named operations over the FXU's state: entering a response into `Q`, taking the IllegalCommand
exception, the outputs, and what an edge does to each part of the state. -/

namespace Sys2Proof.Machine

/-- LAT - 1 for the request on the pins, if it transfers at the coming edge: a free value of the edge, the command and
both operands (R30, R109). -/
def extraLatency (s : State) : Nat := Config.latencyExtra s.tick s.pins.cmd s.pins.a s.pins.b

/-- Appends the response to the request on the pins to `Q` (R29, R31). Its latency is a free value, at least one edge
(R30). -/
def enqueue (s : State) (r : Response) : State :=
  { s with q := s.q ++ [{ rsp := r, wait := extraLatency s }] }

/-- The response of a legal command: `RES <- zext_64(r); ERR <- 0` (R11, R50). -/
def respond (s : State) (r : Nat) : Host.Outcome State Fault Refusal :=
  .next (enqueue s { res := zext64 r, err := false })

/-- `raise IllegalCommand()`: the response RES = 0, ERR = 1, and no other effect on the FXU (R11, R89, R90). The fault is
recorded against the host's program (R90). There is no return from it (R94). -/
def raiseIllegalCommand (s : State) : State :=
  { enqueue s { res := 0, err := true } with trace := .programFault .illegalCommand :: s.trace }

/-- `req_ready` before the coming edge (R24): free before the first reset (R32); 0 while rst = 1 (R102) and while
length(Q) = DEPTH (R29); else 1 once the FXU stops holding it low (R29, R30). -/
def reqReady (s : State) : Bool :=
  match s.phase with
  | .unreset => Config.unresetReady s.tick
  | .running => !s.pins.rst && s.readyIn == 0 && decide (s.q.length < Config.depth)

/-- `rsp_valid` before the coming edge (R24): free before the first reset (R32); 0 while rst = 1 (R102); else 1 when the
head of `Q` has waited its latency (R29, R30). -/
def rspValid (s : State) : Bool :=
  match s.phase with
  | .unreset => Config.unresetValid s.tick
  | .running =>
    match s.q with
    | [] => false
    | e :: _ => !s.pins.rst && e.wait == 0

/-- The response on `rsp_res` and `rsp_err` (R24): the head of `Q` while rsp_valid = 1, else unspecified (R27, R32). -/
def rspBus (s : State) : Response :=
  match s.phase, rspValid s, s.q with
  | .running, true, e :: _ => e.rsp
  | _, _, _ => { res := Config.idleRes s.tick, err := Config.idleErr s.tick }

/-- A request transfers at the coming edge: rst = 0, req_valid = 1 and req_ready = 1 (R26). Before the first reset no
transfer is promised an answer (R28), and the model counts none. -/
def reqTransfers (s : State) : Bool :=
  s.phase == .running && !s.pins.rst && s.pins.reqValid && reqReady s

/-- A response transfers at the coming edge: rst = 0, rsp_valid = 1 and rsp_ready = 1 (R27). -/
def rspTransfers (s : State) : Bool :=
  s.phase == .running && !s.pins.rst && rspValid s && s.pins.rspReady

/-- The host duty that the host breaks at the coming edge, if any (R26, R107). A reset edge ends the duty to hold. -/
def brokenDuty (s : State) : Option Fault :=
  if s.held.isSome ∧ ¬ (s.pins.reqValid = true ∧ s.held = some s.pins.request) then some .requestNotHeld
  else if s.pins.reqValid = true ∧ s.pins.undriven = true then some .requestUndriven
  else none

/-- One edge of waiting for every response in flight; a valid response stays valid (R27, R30). -/
def ageQueue (q : List InFlight) : List InFlight := q.map fun e => { e with wait := e.wait - 1 }

/-- The response channel at an edge without reset: every response waits one edge less, and the head leaves `Q` and is
emitted to the host if it transfers (R27, R31 Deliver). -/
def responseSide (s : State) : State :=
  match rspTransfers s, s.q with
  | true, e :: rest => { s with q := ageQueue rest, trace := .delivered e.rsp :: s.trace }
  | _, _ => { s with q := ageQueue s.q }

/-- The FXU captures the request on the pins (R26, R41). -/
def capture (s : State) : State := { s with trace := .accepted s.pins.request :: s.trace }

/-- What the host drives after an edge when nothing further is given: a request not transferred is held, another is
withdrawn, and rst falls. It keeps the duties of R107. `transferred` says whether the request transferred. -/
def defaultDrive (p : Pins) (transferred : Bool) : Pins :=
  { p with rst := false, reqValid := p.reqValid && !transferred }

/-- The pins at the next edge and what is driven after it. -/
def advancePins (s : State) (transferred : Bool) : Pins × List Pins :=
  match s.upcoming with
  | [] => (defaultDrive s.pins transferred, [])
  | p :: rest => (p, rest)

/-- The bookkeeping at the end of an edge without reset. `s` is the state before the edge, `t` the state with the
edge's transfers done. -/
def endEdge (s t : State) : State :=
  let transferred := reqTransfers s
  let next := advancePins s transferred
  { t with
    readyIn := if s.readyIn = 0 then Config.reqStall s.tick next.1.reqValid else s.readyIn - 1
    held := if s.pins.reqValid && !transferred then some s.pins.request else none
    pins := next.1
    upcoming := next.2
    tick := s.tick + 1 }

/-- An edge with rst = 1: no transfer, and `Q` becomes empty (R102, R103); `req_ready` after it is unspecified (R32). -/
def resetEdge (s : State) : State :=
  { q := [], phase := .running, readyIn := Config.reqStall s.tick (advancePins s false).1.reqValid, held := none,
    pins := (advancePins s false).1, upcoming := (advancePins s false).2,
    tick := s.tick + 1, trace := .reset :: s.trace }

/-- An edge with rst = 0 before the first reset: nothing is promised (R32, R105), and only the wires move on. -/
def unresetEdge (s : State) : State :=
  { s with pins := (advancePins s false).1, upcoming := (advancePins s false).2, held := none, tick := s.tick + 1 }

end Sys2Proof.Machine
end

