-- ==== Sys2Proof/Machine/Invert.lean ====
section
/-! DEFINITION. Inversion: INV (43_invert.md). -/

namespace Sys2Proof.Machine

/-- INV.W: MAX(W) - a (R78). -/
def invResult (w : FracWidth) (a : Bus) : Nat := w.maxRaw - fracOperand w a


/-- INV.8 (R78). -/
def execInv8 (s : State) : Host.Outcome State Fault Refusal :=
  respond s (invResult .w8 s.pins.a)

/-- INV.16 (R78). -/
def execInv16 (s : State) : Host.Outcome State Fault Refusal :=
  respond s (invResult .w16 s.pins.a)

end Sys2Proof.Machine
end

