-- ==== Sys2Proof/Machine/Flags.lean ====
section
/-! DEFINITION. The FXU stores no flag (R20). The one status-like value a command computes is the outcome of CMP, which
is data in RES (R20, R72). -/

namespace Sys2Proof.Machine

/-- `{gt, eq, lt}`: bit 2 is a > b, bit 1 is a = b, bit 0 is a < b, unsigned (R72). -/
def compareOutcome (a b : Nat) : Nat :=
  (if b < a then 4 else 0) + (if a = b then 2 else 0) + (if a < b then 1 else 0)

end Sys2Proof.Machine
end

