-- ==== Sys2Proof/Machine/MinMaxCompare.lean ====
section
/-! DEFINITION. Minimum, maximum and compare: MIN, MAX, CMP (41_minmax_compare.md). -/

namespace Sys2Proof.Machine

/-- MIN.W: the smaller raw value (R70). -/
def minResult (w : FracWidth) (a b : Bus) : Nat := min (fracOperand w a) (fracOperand w b)

/-- MAX.W: the larger raw value (R71). -/
def maxResult (w : FracWidth) (a b : Bus) : Nat := max (fracOperand w a) (fracOperand w b)

/-- CMP.W: the outcome, one-hot (R72). -/
def cmpResult (w : FracWidth) (a b : Bus) : Nat := compareOutcome (fracOperand w a) (fracOperand w b)


/-- MIN.8 (R70). -/
def execMin8 (s : State) : Host.Outcome State Fault Refusal :=
  respond s (minResult .w8 s.pins.a s.pins.b)

/-- MIN.16 (R70). -/
def execMin16 (s : State) : Host.Outcome State Fault Refusal :=
  respond s (minResult .w16 s.pins.a s.pins.b)

/-- MAX.8 (R71). -/
def execMax8 (s : State) : Host.Outcome State Fault Refusal :=
  respond s (maxResult .w8 s.pins.a s.pins.b)

/-- MAX.16 (R71). -/
def execMax16 (s : State) : Host.Outcome State Fault Refusal :=
  respond s (maxResult .w16 s.pins.a s.pins.b)

/-- CMP.8 (R72). -/
def execCmp8 (s : State) : Host.Outcome State Fault Refusal :=
  respond s (cmpResult .w8 s.pins.a s.pins.b)

/-- CMP.16 (R72). -/
def execCmp16 (s : State) : Host.Outcome State Fault Refusal :=
  respond s (cmpResult .w16 s.pins.a s.pins.b)

end Sys2Proof.Machine
end

