-- ==== Sys2Proof/Machine/Float.lean ====
section
/-! DEFINITION. The floating-point primitives of 00_scope.md section 5.1 (R12 to R17), over exact natural numbers.

A finite datum of a format is held as its sign and its magnitude counted in units of 2^(-K), the format's smallest
subnormal (K = 149 for F32, 1074 for F64). Every finite datum is a whole number of these units, so no magnitude is
approximated. -/

namespace Sys2Proof

/-- Bits of the biased exponent (R12). -/
def FloatFmt.expBits : FloatFmt → Nat
  | .f32 => 8
  | .f64 => 11

/-- Bits of the fraction; the precision p is one more (R12). -/
def FloatFmt.fracBits : FloatFmt → Nat
  | .f32 => 23
  | .f64 => 52

end Sys2Proof

namespace Sys2Proof.Machine

/-- The precision p (R12). -/
def precision (f : FloatFmt) : Nat := f.fracBits + 1

/-- emax, which is also the exponent bias (R12). -/
def emax (f : FloatFmt) : Nat := pow2 (f.expBits - 1) - 1

/-- K: the smallest positive datum of the format is 2^(-K). -/
def unitExp (f : FloatFmt) : Nat := emax f + f.fracBits - 1

/-- How many units make 1.0. -/
def unitsPerOne (f : FloatFmt) : Nat := pow2 (unitExp f)

/-- The exponent field of all ones: infinities and NaNs (R12). -/
def expAllOnes (f : FloatFmt) : Nat := pow2 f.expBits - 1

/-- (2 - 2^(1-p)) * 2^emax, the largest finite magnitude, in units. -/
def maxFinite (f : FloatFmt) : Nat := (pow2 (precision f) - 1) * pow2 (expAllOnes f - 2)

/-- A datum of a float format (R12). A NaN's sign and payload are never observable (R14), so a NaN carries none. -/
inductive Datum where
  | nan
  | inf (neg : Bool)
  | fin (neg : Bool) (mag : Nat)
deriving DecidableEq, Repr

/-- `asF(x)`: the datum of format F with bit pattern x (R12). -/
def asDatum (f : FloatFmt) (x : Nat) : Datum :=
  let frac := x % pow2 f.fracBits
  let exp := x / pow2 f.fracBits % pow2 f.expBits
  let neg := x / pow2 (f.fracBits + f.expBits) % 2 == 1
  if exp = expAllOnes f then (if frac = 0 then .inf neg else .nan)
  else if exp = 0 then .fin neg frac
  else .fin neg ((pow2 f.fracBits + frac) * pow2 (exp - 1))

/-- The position of the leading 1 of n < 2 ^ 2 ^ k, by halving the number of bits k times. -/
def log2Within : Nat → Nat → Nat
  | 0, _ => 0
  | k + 1, n =>
    if n < pow2 (pow2 k) then log2Within k n else pow2 k + log2Within k (n / pow2 (pow2 k))

/-- The position of the leading 1 of n: Nat.log2 n, computed in few steps where n < 2 ^ 8192. -/
def floorLog2 (n : Nat) : Nat := if n < pow2 (pow2 13) then log2Within 13 n else n.log2

/-- The position of a magnitude's last significand bit, in powers of two of the unit; 0 for subnormals and the lowest
binade. -/
def lastBit (f : FloatFmt) (mag : Nat) : Nat := floorLog2 mag - f.fracBits

/-- The sign bit in place. -/
def signBit (f : FloatFmt) (neg : Bool) : Nat := if neg then pow2 (f.fracBits + f.expBits) else 0

/-- `bits(f)`: the bit pattern of a datum (R12). A NaN's sign and payload are free values, the payload non-zero. -/
def datumBits (f : FloatFmt) : Datum → Nat
  | .nan => signBit f Config.nanSign + expAllOnes f * pow2 f.fracBits + (1 + Config.nanPayload % (pow2 f.fracBits - 1))
  | .inf neg => signBit f neg + expAllOnes f * pow2 f.fracBits
  | .fin neg mag => signBit f neg + lastBit f mag * pow2 f.fracBits + mag / pow2 (lastBit f mag)

/-- The integer nearest to n / d, the even one on a tie (R13). -/
def roundHalfEven (n d : Nat) : Nat :=
  if 2 * (n % d) < d then n / d
  else if d < 2 * (n % d) then n / d + 1
  else n / d + n / d % 2

/-- The magnitude nearest to num / den units that has at most p significand bits, ties to an even significand, with no
flush to zero (R13). -/
def rneMag (f : FloatFmt) (num den : Nat) : Nat :=
  let s := lastBit f (num / den)
  roundHalfEven num (den * pow2 s) * pow2 s

/-- `RNE_F(r)` with the sign given, for |r| = num / den units: an infinity where |r| >= (2 - 2^(1-p)) * 2^emax (R13). -/
def rne (f : FloatFmt) (neg : Bool) (num den : Nat) : Datum :=
  if maxFinite f * den ≤ num then .inf neg else .fin neg (rneMag f num den)

/-- `fmul_F(x, y)`: the exact product of the reals, rounded once (R14). -/
def fmul (f : FloatFmt) : Datum → Datum → Datum
  | .nan, _ => .nan
  | _, .nan => .nan
  | .inf s, .inf t => .inf (s != t)
  | .inf s, .fin t m => if m = 0 then .nan else .inf (s != t)
  | .fin s m, .inf t => if m = 0 then .nan else .inf (s != t)
  | .fin s m, .fin t n => rne f (s != t) (m * n) (unitsPerOne f)

/-- `uint_to_F(n)` (R15). -/
def uintToFloat (f : FloatFmt) (n : Nat) : Datum := rne f false (n * unitsPerOne f) 1

/-- `sat_trunc(f, M)`: NaN gives NAN_RAW, else truncate toward zero and clamp to [0, M] (R16). -/
def satTrunc (f : FloatFmt) (d : Datum) (m : Nat) : Nat :=
  match d with
  | .nan => Config.nanRaw
  | .inf true => 0
  | .inf false => m
  | .fin true _ => 0
  | .fin false mag => min (mag / unitsPerOne f) m

/-- `RCP_F(W)` = RNE_F(1 / MAX(W)) (R17). -/
def reciprocal (f : FloatFmt) (w : FracWidth) : Datum := rne f false (unitsPerOne f) w.maxRaw

/-- `MAXF_F(W)` = uint_to_F(MAX(W)) (R17). -/
def maxFloat (f : FloatFmt) (w : FracWidth) : Datum := uintToFloat f w.maxRaw

/-- The float operand on a bus: `asF32(A[31:0])` or `asF64(A[63:0])` (R49). -/
def floatOperand (f : FloatFmt) (v : Bus) : Datum :=
  match f with
  | .f32 => asDatum .f32 (slice v 31 0)
  | .f64 => asDatum .f64 (slice v 63 0)

end Sys2Proof.Machine
end

