-- ==== Sys2Proof/Machine/FloatConvert.lean ====
section
/-! DEFINITION. Float conversion: F2X, X2F (40_float_convert.md). -/

namespace Sys2Proof.Machine

/-- F2X.W.F: scale by MAX(W) in format F, truncate, clamp (R61). -/
def f2xResult (w : FracWidth) (f : FloatFmt) (a : Bus) : Nat :=
  satTrunc f (fmul f (floatOperand f a) (maxFloat f w)) w.maxRaw

/-- The datum X2F.W.F makes of a raw value: one multiply by the rounded reciprocal in format F (R66). -/
def x2fDatum (w : FracWidth) (f : FloatFmt) (raw : Nat) : Datum :=
  fmul f (uintToFloat f raw) (reciprocal f w)

/-- X2F.W.F: the bit pattern of that datum (R66). -/
def x2fResult (w : FracWidth) (f : FloatFmt) (a : Bus) : Nat := datumBits f (x2fDatum w f (fracOperand w a))


/-- F2X.8.F32 (R61). -/
def execF2x8F32 (s : State) : Host.Outcome State Fault Refusal :=
  respond s (f2xResult .w8 .f32 s.pins.a)

/-- F2X.16.F32 (R61). -/
def execF2x16F32 (s : State) : Host.Outcome State Fault Refusal :=
  respond s (f2xResult .w16 .f32 s.pins.a)

/-- F2X.8.F64 (R61). -/
def execF2x8F64 (s : State) : Host.Outcome State Fault Refusal :=
  respond s (f2xResult .w8 .f64 s.pins.a)

/-- F2X.16.F64 (R61). -/
def execF2x16F64 (s : State) : Host.Outcome State Fault Refusal :=
  respond s (f2xResult .w16 .f64 s.pins.a)

/-- X2F.8.F32 (R66). -/
def execX2f8F32 (s : State) : Host.Outcome State Fault Refusal :=
  respond s (x2fResult .w8 .f32 s.pins.a)

/-- X2F.16.F32 (R66). -/
def execX2f16F32 (s : State) : Host.Outcome State Fault Refusal :=
  respond s (x2fResult .w16 .f32 s.pins.a)

/-- X2F.8.F64 (R66). -/
def execX2f8F64 (s : State) : Host.Outcome State Fault Refusal :=
  respond s (x2fResult .w8 .f64 s.pins.a)

/-- X2F.16.F64 (R66). -/
def execX2f16F64 (s : State) : Host.Outcome State Fault Refusal :=
  respond s (x2fResult .w16 .f64 s.pins.a)

end Sys2Proof.Machine
end

