-- ==== Sys2Proof/Machine/Multiply.lean ====
section
/-! DEFINITION. The widening multiply: MULW (45_multiply.md). -/

namespace Sys2Proof.Machine

/-- MULW: X2F.8.F64 of each operand, one binary64 multiply, F2X.16.F64 of the product (R83). -/
def mulwResult (a b : Bus) : Nat :=
  let fa := x2fDatum .w8 .f64 (fracOperand .w8 a)
  let fb := x2fDatum .w8 .f64 (fracOperand .w8 b)
  let p := fmul .f64 fa fb
  satTrunc .f64 (fmul .f64 p (maxFloat .f64 .w16)) FracWidth.w16.maxRaw


/-- MULW (R83). -/
def execMulw (s : State) : Host.Outcome State Fault Refusal :=
  respond s (mulwResult s.pins.a s.pins.b)

end Sys2Proof.Machine
end

