-- ==== Sys2Proof/Machine/Saturating.lean ====
section
/-! DEFINITION. Saturating add and subtract: ADD, SUB (42_saturating.md). -/

namespace Sys2Proof.Machine

/-- ADD.W: min(a + b, MAX(W)), the sum over the unbounded integers (R10, R74). -/
def addResult (w : FracWidth) (a b : Bus) : Nat := min (fracOperand w a + fracOperand w b) w.maxRaw

/-- SUB.W: max(a - b, 0) over the integers, which is subtraction of natural numbers (R75). -/
def subResult (w : FracWidth) (a b : Bus) : Nat := fracOperand w a - fracOperand w b


/-- ADD.8 (R74). -/
def execAdd8 (s : State) : Host.Outcome State Fault Refusal :=
  respond s (addResult .w8 s.pins.a s.pins.b)

/-- ADD.16 (R74). -/
def execAdd16 (s : State) : Host.Outcome State Fault Refusal :=
  respond s (addResult .w16 s.pins.a s.pins.b)

/-- SUB.8 (R75). -/
def execSub8 (s : State) : Host.Outcome State Fault Refusal :=
  respond s (subResult .w8 s.pins.a s.pins.b)

/-- SUB.16 (R75). -/
def execSub16 (s : State) : Host.Outcome State Fault Refusal :=
  respond s (subResult .w16 s.pins.a s.pins.b)

end Sys2Proof.Machine
end

