-- ==== Sys2Proof/Machine/WidthConvert.lean ====
section
/-! DEFINITION. Width conversion: WIDEN, NARROW (44_width.md). -/

namespace Sys2Proof.Machine

/-- WIDEN: a * 257 of a Frac8 (R80). -/
def widenResult (a : Bus) : Nat := fracOperand .w8 a * 257

/-- NARROW: a / 257 of a Frac16, truncated (R81). -/
def narrowResult (a : Bus) : Nat := fracOperand .w16 a / 257


/-- WIDEN (R80). -/
def execWiden (s : State) : Host.Outcome State Fault Refusal :=
  respond s (widenResult s.pins.a)

/-- NARROW (R81). -/
def execNarrow (s : State) : Host.Outcome State Fault Refusal :=
  respond s (narrowResult s.pins.a)

end Sys2Proof.Machine
end

