-- ==== Sys2Proof/Machine/Dispatch.lean ====
section
/-! DEFINITION. The meaning of each command, arm by arm, in the order of the opcode map (R48, R51). -/

namespace Sys2Proof.Machine

def exec (i : Instr) (s : State) : Host.Outcome State Fault Refusal :=
  match i with
  | .add8 => Sys2Proof.Machine.execAdd8 s
  | .add16 => Sys2Proof.Machine.execAdd16 s
  | .sub8 => Sys2Proof.Machine.execSub8 s
  | .sub16 => Sys2Proof.Machine.execSub16 s
  | .mulw => Sys2Proof.Machine.execMulw s
  | .f2x8f32 => Sys2Proof.Machine.execF2x8F32 s
  | .f2x16f32 => Sys2Proof.Machine.execF2x16F32 s
  | .f2x8f64 => Sys2Proof.Machine.execF2x8F64 s
  | .f2x16f64 => Sys2Proof.Machine.execF2x16F64 s
  | .x2f8f32 => Sys2Proof.Machine.execX2f8F32 s
  | .x2f16f32 => Sys2Proof.Machine.execX2f16F32 s
  | .x2f8f64 => Sys2Proof.Machine.execX2f8F64 s
  | .x2f16f64 => Sys2Proof.Machine.execX2f16F64 s
  | .widen => Sys2Proof.Machine.execWiden s
  | .narrow => Sys2Proof.Machine.execNarrow s
  | .inv8 => Sys2Proof.Machine.execInv8 s
  | .inv16 => Sys2Proof.Machine.execInv16 s
  | .min8 => Sys2Proof.Machine.execMin8 s
  | .min16 => Sys2Proof.Machine.execMin16 s
  | .max8 => Sys2Proof.Machine.execMax8 s
  | .max16 => Sys2Proof.Machine.execMax16 s
  | .cmp8 => Sys2Proof.Machine.execCmp8 s
  | .cmp16 => Sys2Proof.Machine.execCmp16 s

end Sys2Proof.Machine
end

