-- ==== Sys2Proof/Machine/Request.lean ====
section
/-! DEFINITION. What the FXU does with a captured request, and an edge without reset. -/

namespace Sys2Proof.Machine

/-- The FXU decodes the captured command word and executes the command, or takes IllegalCommand: no part of any
operation runs for an illegal word (R51, R52, R88, R91). -/
def acceptRequest (s : State) : Host.Outcome State Fault Refusal :=
  match decode s.pins.cmd with
  | .ok i => exec i s
  | .error _ => .next (raiseIllegalCommand s)

/-- An edge without reset at which the host keeps its duties. The response at the head of `Q` transfers or not, then the
request on the pins transfers or not; each was decided before the edge (R26, R27, R31, R109). -/
def runEdge (s : State) : Host.Outcome State Fault Refusal :=
  if reqTransfers s then
    match acceptRequest (capture (responseSide s)) with
    | .next t => .next (endEdge s t)
    | .fault r => .fault r
    | .refused r => .refused r
  else .next (endEdge s (responseSide s))

/-- What one rising edge of `clk` does (R24). -/
def clockEdge (s : State) : Host.Outcome State Fault Refusal :=
  if s.pins.rst then .next (resetEdge s)
  else
    match s.phase, brokenDuty s with
    | .unreset, _ => .next (unresetEdge s)
    | .running, some d => .fault d
    | .running, none => runEdge s

/-- Puts a command word on the pins of a running FXU that is ready for it, so that it transfers at the next edge. -/
def offerCommand (s : State) (cmd : Cmd) : State :=
  { s with
    q := if s.q.length < Config.depth then s.q else []
    phase := .running
    readyIn := 0
    held := none
    pins := { s.pins with rst := false, reqValid := true, cmd := cmd, undriven := false } }

end Sys2Proof.Machine
end

