-- ==== Sys2Proof/Machine/Step.lean ====
section
/-! DEFINITION. One step of the machine is one rising edge of `clk`. -/

namespace Sys2Proof.Machine

/-- One rising edge of `clk` (R24, R26, R27, R102). A stopped clock is a step not taken (R101). -/
def step (s : State) : Host.Outcome State Fault Refusal := clockEdge s

/-- `s` with the command word `w` offered so that the very next step accepts and runs it: the word stands on `req_cmd`
with `req_valid` = 1 and `rst` = 0, and the FXU is ready. The operand buses are left as they are. Every command is one
8-bit word (R53), so `nbits` is 8 and is not needed. -/
def State.withFetchWord (s : State) (_nbits w : Nat) : State := offerCommand s (BitVec.ofNat 8 w)

end Sys2Proof.Machine
end

