-- ==== Sys2Proof/Certificates/Slice0/SpecTables.lean ====
section
/-! DEFINITION. Tables of the spec that statements refer to: the set E of R84 and the round-trip lists of R69
(95_test_vectors.md section 2.3). -/

namespace Sys2Proof.SpecTables

/-- The set E of R84, row by row: a, and every b such that (a, b) is in E. -/
def mulwRows : List (Nat × List Nat) :=
  [(17, [45, 90, 180, 195]),
   (33, [85, 170, 255]),
   (34, [45, 90, 180, 195]),
   (37, [255]),
   (41, [255]),
   (45, [17, 34, 68, 85, 136, 153, 170, 187, 221, 255]),
   (49, [255]),
   (53, [255]),
   (57, [85, 170, 255]),
   (61, [255]),
   (65, [153]),
   (66, [85, 170, 255]),
   (68, [45, 90, 180, 195]),
   (69, [85, 170]),
   (74, [255]),
   (75, [187]),
   (81, [85, 170]),
   (82, [255]),
   (85, [33, 45, 57, 66, 69, 81, 90, 93, 99, 105, 111, 114, 117, 123,
      129, 132, 135, 138, 147, 153, 159, 162, 171, 177, 180, 183, 186, 198, 201, 210, 222, 225, 228, 234, 246, 249]),
   (90, [17, 34, 68, 85, 136, 153, 170, 187, 221, 255]),
   (93, [85, 170]),
   (98, [255]),
   (99, [85, 170]),
   (105, [85, 119, 153, 170, 238])] ++
  [(106, [255]),
   (111, [85, 170]),
   (114, [85, 170, 255]),
   (117, [85, 170]),
   (119, [105, 210]),
   (122, [255]),
   (123, [85, 170]),
   (125, [153]),
   (129, [85, 170]),
   (130, [153]),
   (132, [85, 170, 255]),
   (135, [85, 170, 187]),
   (136, [45, 90, 180, 195]),
   (138, [85, 170]),
   (145, [153]),
   (147, [85, 170]),
   (148, [255]),
   (150, [187]),
   (153, [45, 65, 85, 90, 105, 125, 130, 145, 170, 180, 185, 195, 210, 235, 250]),
   (159, [85, 170]),
   (162, [85, 170]),
   (164, [255]),
   (170, [33, 45, 57, 66, 69, 81, 90, 93, 99, 105, 111, 114, 117, 123,
      129, 132, 135, 138, 147, 153, 159, 162, 171, 177, 180, 183, 186, 198, 201, 210, 222, 225, 228, 234, 246, 249]),
   (171, [85, 170])] ++
  [(177, [85, 170]),
   (180, [17, 34, 68, 85, 136, 153, 170, 187, 221, 255]),
   (183, [85, 170]),
   (185, [153]),
   (186, [85, 170]),
   (187, [45, 75, 90, 135, 150, 180, 195, 225]),
   (195, [17, 34, 68, 136, 153, 187]),
   (196, [255]),
   (198, [85, 170]),
   (201, [85, 170]),
   (210, [85, 119, 153, 170, 238]),
   (212, [255]),
   (221, [45, 90, 180]),
   (222, [85, 170]),
   (225, [85, 170, 187]),
   (228, [85, 170, 255]),
   (234, [85, 170]),
   (235, [153]),
   (238, [105, 210]),
   (244, [255]),
   (246, [85, 170]),
   (249, [85, 170]),
   (250, [153]),
   (255, [33, 37, 41, 45, 49, 53, 57, 61, 66, 74, 82, 90, 98, 106, 114, 122, 132, 148, 164, 180, 196, 212, 228, 244])]

/-- (a, b) is in E. -/
def inE (a b : Nat) : Bool := mulwRows.any fun row => row.1 == a && row.2.contains b

/-- The raws r with F2X.8.F64(X2F.8.F64(r)) = r - 1. -/
def roundTripLow8F64 : List Nat :=
   [33, 37, 41, 45, 49, 53, 57, 61, 66, 74, 82, 90, 98, 106, 114, 122, 132, 148, 164, 180, 196, 212, 228, 244]

/-- The raws r with F2X.16.F64(X2F.16.F64(r)) = r - 1. -/
def roundTripLow16F64 : List Nat :=
   [33, 37, 41, 45, 49, 53, 57, 61, 66, 74, 82, 90, 98, 106, 114, 122, 132, 148, 164, 180, 196, 212, 228, 244,
    264, 296, 328, 360, 392, 424, 456, 488, 528, 592, 656, 720, 784, 848, 912, 976, 1056, 1184, 1312, 1440,
    1568, 1696, 1824, 1952, 2112, 2368, 2624, 2880, 3136, 3392, 3648, 3904, 4224, 4736, 5248, 5760, 6272, 6784,
    7296, 7808] ++
   [8448, 9472, 10496, 11520, 12544, 13568, 14592, 15616, 16896, 18944, 20992, 23040, 25088, 27136, 29184,
    31232, 33792, 37888, 41984, 46080, 50176, 54272, 58368, 62464]

/-- The raws r with F2X.16.F32(X2F.16.F32(r)) = r - 1. -/
def roundTripLow16F32 : List Nat :=
   [257, 261, 265, 269, 273, 277, 281, 285, 289, 293, 297, 301, 305, 309, 313, 317, 321, 325, 329, 333, 337,
    341, 345, 349, 353, 357, 361, 365, 369, 373, 377, 381, 385, 389, 393, 397, 401, 405, 409, 413, 417, 421,
    425, 429, 433, 437, 441, 445, 449, 453, 457, 461, 465, 469, 473, 477, 481, 485, 489, 493, 497, 501, 505,
    509] ++
   [514, 522, 530, 538, 546, 554, 562, 570, 578, 586, 594, 602, 610, 618, 626, 634, 642, 650, 658, 666, 674,
    682, 690, 698, 706, 714, 722, 730, 738, 746, 754, 762, 770, 778, 786, 794, 802, 810, 818, 826, 834, 842,
    850, 858, 866, 874, 882, 890, 898, 906, 914, 922, 930, 938, 946, 954, 962, 970, 978, 986, 994, 1002, 1010,
    1018] ++
   [1028, 1044, 1060, 1076, 1092, 1108, 1124, 1140, 1156, 1172, 1188, 1204, 1220, 1236, 1252, 1268, 1284, 1300,
    1316, 1332, 1348, 1364, 1380, 1396, 1412, 1428, 1444, 1460, 1476, 1492, 1508, 1524, 1540, 1556, 1572, 1588,
    1604, 1620, 1636, 1652, 1668, 1684, 1700, 1716, 1732, 1748, 1764, 1780, 1796, 1812, 1828, 1844, 1860, 1876,
    1892, 1908, 1924, 1940, 1956, 1972, 1988, 2004, 2020, 2036] ++
   [2056, 2088, 2120, 2152, 2184, 2216, 2248, 2280, 2312, 2344, 2376, 2408, 2440, 2472, 2504, 2536, 2568, 2600,
    2632, 2664, 2696, 2728, 2760, 2792, 2824, 2856, 2888, 2920, 2952, 2984, 3016, 3048, 3080, 3112, 3144, 3176,
    3208, 3240, 3272, 3304, 3336, 3368, 3400, 3432, 3464, 3496, 3528, 3560, 3592, 3624, 3656, 3688, 3720, 3752,
    3784, 3816, 3848, 3880, 3912, 3944, 3976, 4008, 4040, 4072] ++
   [4112, 4176, 4240, 4304, 4368, 4432, 4496, 4560, 4624, 4688, 4752, 4816, 4880, 4944, 5008, 5072, 5136, 5200,
    5264, 5328, 5392, 5456, 5520, 5584, 5648, 5712, 5776, 5840, 5904, 5968, 6032, 6096, 6160, 6224, 6288, 6352,
    6416, 6480, 6544, 6608, 6672, 6736, 6800, 6864, 6928, 6992, 7056, 7120, 7184, 7248, 7312, 7376, 7440, 7504,
    7568, 7632, 7696, 7760, 7824, 7888, 7952, 8016, 8080, 8144] ++
   [8224, 8352, 8480, 8608, 8736, 8864, 8992, 9120, 9248, 9376, 9504, 9632, 9760, 9888, 10016, 10144, 10272,
    10400, 10528, 10656, 10784, 10912, 11040, 11168, 11296, 11424, 11552, 11680, 11808, 11936, 12064, 12192,
    12320, 12448, 12576, 12704, 12832, 12960, 13088, 13216, 13344, 13472, 13600, 13728, 13856, 13984, 14112,
    14240, 14368, 14496, 14624, 14752, 14880, 15008, 15136, 15264, 15392, 15520, 15648, 15776, 15904, 16032,
    16160, 16288] ++
   [16448, 16704, 16960, 17216, 17472, 17728, 17984, 18240, 18496, 18752, 19008, 19264, 19520, 19776, 20032,
    20288, 20544, 20800, 21056, 21312, 21568, 21824, 22080, 22336, 22592, 22848, 23104, 23360, 23616, 23872,
    24128, 24384, 24640, 24896, 25152, 25408, 25664, 25920, 26176, 26432, 26688, 26944, 27200, 27456, 27712,
    27968, 28224, 28480, 28736, 28992, 29248, 29504, 29760, 30016, 30272, 30528, 30784, 31040, 31296, 31552,
    31808, 32064, 32320, 32576] ++
   [32896, 33408, 33920, 34432, 34944, 35456, 35968, 36480, 36992, 37504, 38016, 38528, 39040, 39552, 40064,
    40576, 41088, 41600, 42112, 42624, 43136, 43648, 44160, 44672, 45184, 45696, 46208, 46720, 47232, 47744,
    48256, 48768, 49280, 49792, 50304, 50816, 51328, 51840, 52352, 52864, 53376, 53888, 54400, 54912, 55424,
    55936, 56448, 56960, 57472, 57984, 58496, 59008, 59520, 60032, 60544, 61056, 61568, 62080, 62592, 63104,
    63616, 64128, 64640, 65152]

end Sys2Proof.SpecTables
end

