-- ==== Sys2Proof/Machine/Respond.lean ====
section
/-! DEFINITION. EXEC of R51: the response to a request as a pure function of the request alone (R2, R25). -/

namespace Sys2Proof.Machine

/-- The result of a legal command on operand buses `a` and `b` (R51). -/
def commandResult (i : Instr) (a b : Bus) : Nat :=
  match i with
  | .add8 => addResult .w8 a b
  | .add16 => addResult .w16 a b
  | .sub8 => subResult .w8 a b
  | .sub16 => subResult .w16 a b
  | .mulw => mulwResult a b
  | .f2x8f32 => f2xResult .w8 .f32 a
  | .f2x16f32 => f2xResult .w16 .f32 a
  | .f2x8f64 => f2xResult .w8 .f64 a
  | .f2x16f64 => f2xResult .w16 .f64 a
  | .x2f8f32 => x2fResult .w8 .f32 a
  | .x2f16f32 => x2fResult .w16 .f32 a
  | .x2f8f64 => x2fResult .w8 .f64 a
  | .x2f16f64 => x2fResult .w16 .f64 a
  | .widen => widenResult a
  | .narrow => narrowResult a
  | .inv8 => invResult .w8 a
  | .inv16 => invResult .w16 a
  | .min8 => minResult .w8 a b
  | .min16 => minResult .w16 a b
  | .max8 => maxResult .w8 a b
  | .max16 => maxResult .w16 a b
  | .cmp8 => cmpResult .w8 a b
  | .cmp16 => cmpResult .w16 a b

/-- The response to an illegal command (R89). -/
def illegalResponse : Response := { res := 0, err := true }

/-- EXEC(CMD, A, B), total on all 256 command words (R51). -/
def execResponse (r : Request) : Response :=
  match decode r.cmd with
  | .ok i => { res := zext64 (commandResult i r.a r.b), err := false }
  | .error _ => illegalResponse

end Sys2Proof.Machine
end

