-- ==== Sys2Proof/Machine/Script.lean ====
section
/-! DEFINITION. What the host's programs are written with: the pseudo-operations, which issue no command (R55) or one
command and a write by the host (R56), and scripts of requests (R54, R60). The FXU sees only requests. -/

namespace Sys2Proof.Machine

/-- A pseudo-operation that issues no command (R55). -/
inductive Pseudo where
  | fromRaw (w : FracWidth) (value : Nat)
  | maxValue (w : FracWidth)
  | defaultValue (w : FracWidth)
deriving DecidableEq, Repr

/-- The literal a pseudo-operation stands for (R55). -/
def Pseudo.literal : Pseudo → Nat
  | .fromRaw _ value => value
  | .maxValue w => w.maxRaw
  | .defaultValue _ => 0

/-- The in-place pseudo-operations ADDIP.W and SUBIP.W (R56). -/
inductive InPlace where
  | addip (w : FracWidth)
  | subip (w : FracWidth)
deriving DecidableEq, Repr

/-- The one command an in-place pseudo-operation expands to (R56). -/
def InPlace.command : InPlace → Instr
  | .addip .w8 => .add8
  | .addip .w16 => .add16
  | .subip .w8 => .sub8
  | .subip .w16 => .sub16

/-- The width of an in-place pseudo-operation. -/
def InPlace.width : InPlace → FracWidth
  | .addip w => w
  | .subip w => w

/-- The value the host writes back to x: RES[W-1:0] of the response to the command on x and b (R56). -/
def InPlace.writeBack (p : InPlace) (x b : Bus) : Nat :=
  fracOperand p.width (execResponse { cmd := encode p.command, a := x, b := b }).res

/-- An operand of a script's line: a literal, or the RES of an earlier line, counted from 1 as in `t1` (R60). -/
inductive ScriptOperand where
  | literal (v : Bus)
  | result (n : Nat)
deriving DecidableEq, Repr

/-- A request line of a script (R60). An unread operand is driven as the line says. -/
structure ScriptLine where
  cmd : Cmd
  a   : ScriptOperand
  b   : ScriptOperand
deriving DecidableEq, Repr

/-- The value of an operand, given the responses so far, oldest first; none for a result not yet there. R60 has the
host copy the earlier line's result field. DESIGN CHOICE (notes entry 17): the model copies the whole RES; where that
line's command was illegal, so that it has no result field (R50), the RES = 0 of its response is copied all the same,
and nothing but its ERR = 1 marks it. That 0 is no computed result (R90). -/
def ScriptOperand.value (sofar : List Response) : ScriptOperand → Option Bus
  | .literal v => some v
  | .result 0 => none
  | .result (n + 1) => (sofar[n]?).map Response.res

/-- The request a line issues, given the responses so far (R60). -/
def ScriptLine.request (sofar : List Response) (l : ScriptLine) : Option Request :=
  match l.a.value sofar, l.b.value sofar with
  | some a, some b => some { cmd := l.cmd, a := a, b := b }
  | _, _ => none

/-- The responses a script ends with, oldest first, from the responses so far: "the end state of a program is the list
of its responses" (R60). None where a line refers to a response that is not there. -/
def runScript (sofar : List Response) : List ScriptLine → Option (List Response)
  | [] => some sofar
  | l :: ls =>
    match l.request sofar with
    | none => none
    | some r => runScript (sofar ++ [execResponse r]) ls

end Sys2Proof.Machine
end

