-- ==== Sys2Proof/Machine/Transaction.lean ====
section
/-! DEFINITION. The transaction-level model of R31: the steps Accept, Deliver and Reset on `Q` as a list of responses,
with no clock, and the transactions that one clock edge amounts to. -/

namespace Sys2Proof.Machine

/-- A step of the transaction-level model (R31). -/
inductive Transaction where
  | accept (r : Request)
  | deliver
  | reset
deriving DecidableEq, Repr

/-- `Q` after a transaction, none where it is not enabled, for a capacity of `depth` (R31). -/
def transact (depth : Nat) (k : Transaction) (q : List Response) : Option (List Response) :=
  match k, q with
  | .accept r, q => if q.length < depth then some (q ++ [execResponse r]) else none
  | .deliver, _ :: rest => some rest
  | .deliver, [] => none
  | .reset, _ => some []

/-- What a transaction emits to the host (R31). -/
def emits (k : Transaction) (q : List Response) : List Response :=
  match k, q with
  | .deliver, r :: _ => [r]
  | _, _ => []

/-- A sequence of transactions: what it emits, oldest first, and `Q` after it; none where one is not enabled. -/
def transactAll (depth : Nat) : List Transaction → List Response → Option (List Response × List Response)
  | [], q => some ([], q)
  | k :: ks, q =>
    match transact depth k q with
    | none => none
    | some q' =>
      match transactAll depth ks q' with
      | none => none
      | some (out, q'') => some (emits k q ++ out, q'')

/-- The request a transaction accepts, if any. -/
def Transaction.acceptedRequest : Transaction → Option Request
  | .accept r => some r
  | _ => none

/-- `Q` of the clocked machine as the transaction-level model sees it. -/
def responses (s : State) : List Response := s.q.map InFlight.rsp

/-- The transactions of the coming edge: a reset, or the delivery and then the acceptance that take place (R26, R27,
R102, R109). -/
def edgeTransactions (s : State) : List Transaction :=
  if s.pins.rst then [.reset]
  else (if rspTransfers s then [.deliver] else []) ++
    (if reqTransfers s then [.accept s.pins.request] else [])

end Sys2Proof.Machine
end

