-- ==== Sys2Proof/Safety.lean ====
section
/-! DEFINITION. The terms in which claims about the FXU are made: what a command answers, the history of exchanges since
the last reset, the machine's invariants, a quiet host, and the real values of float data. -/

namespace Sys2Proof.Machine

/-! ## What a command answers -/

/-- `exec` of the command gives a next state that differs from `s` in one thing only: the response RES = zext(r),
ERR = 0 stands at the end of `Q`, its latency still open. -/
def Answers (i : Instr) (s : State) (r : Nat) : Prop :=
  exec i s = .next { s with
    q := s.q ++ [{ rsp := { res := BitVec.ofNat 64 r, err := false }, wait := extraLatency s }] }

/-- RES, as a number, of the response to command i on operands a and b. -/
def resultOf (i : Instr) (a b : Nat) : Nat :=
  (execResponse { cmd := encode i, a := BitVec.ofNat 64 a, b := BitVec.ofNat 64 b }).res.toNat

/-- The command of each width-generic operation at width W (R45). -/
def addAt : FracWidth → Instr
  | .w8 => .add8
  | .w16 => .add16

/-- SUB.W. -/
def subAt : FracWidth → Instr
  | .w8 => .sub8
  | .w16 => .sub16

/-- INV.W. -/
def invAt : FracWidth → Instr
  | .w8 => .inv8
  | .w16 => .inv16

/-- MIN.W. -/
def minAt : FracWidth → Instr
  | .w8 => .min8
  | .w16 => .min16

/-- MAX.W. -/
def maxAt : FracWidth → Instr
  | .w8 => .max8
  | .w16 => .max16

/-- CMP.W. -/
def cmpAt : FracWidth → Instr
  | .w8 => .cmp8
  | .w16 => .cmp16

/-- F2X.W.F. -/
def f2xAt : FracWidth → FloatFmt → Instr
  | .w8, .f32 => .f2x8f32
  | .w16, .f32 => .f2x16f32
  | .w8, .f64 => .f2x8f64
  | .w16, .f64 => .f2x16f64

/-- X2F.W.F. -/
def x2fAt : FracWidth → FloatFmt → Instr
  | .w8, .f32 => .x2f8f32
  | .w16, .f32 => .x2f16f32
  | .w8, .f64 => .x2f8f64
  | .w16, .f64 => .x2f16f64

/-! ## The history since the last reset -/

/-- The events since the last reset edge, newest first. -/
def sinceReset (trace : List Event) : List Event := trace.takeWhile fun e => e != .reset

/-- The request an event accepted, if any. -/
def Event.acceptedRequest : Event → Option Request
  | .accepted r => some r
  | _ => none

/-- The response an event delivered, if any. -/
def Event.deliveredResponse : Event → Option Response
  | .delivered r => some r
  | _ => none

/-- The requests that transferred, oldest first. -/
def acceptedIn (trace : List Event) : List Request := (trace.filterMap Event.acceptedRequest).reverse

/-- The responses that transferred, oldest first. -/
def deliveredIn (trace : List Event) : List Response := (trace.filterMap Event.deliveredResponse).reverse

/-- How many faults are recorded against the host's program. -/
def programFaultsIn (trace : List Event) : Nat := trace.count (.programFault .illegalCommand)

/-- The requests with an illegal command word. -/
def illegalRequests (rs : List Request) : List Request := rs.filter fun r => !(cmdFields r.cmd).wellFormed

/-! ## Invariants -/

/-- The length of `Q` never exceeds DEPTH (R29). Before the first reset `Q` is unspecified (R32). -/
def QueueWithinDepth (s : State) : Prop := s.phase = .running → s.q.length ≤ Config.depth

/-- One response per request, in order: the responses delivered since the last reset, followed by those in flight, are
EXEC of the requests that transferred since then, one for one (R25, R28). -/
def AnsweredInOrder (s : State) : Prop :=
  s.phase = .running →
    deliveredIn (sinceReset s.trace) ++ responses s = (acceptedIn (sinceReset s.trace)).map execResponse

/-- A fault is on record for each illegal request accepted since the last reset, and no other (R90). Counting from the
last reset is the model's choice: R90 does not say whether a reset ends a recorded fault (notes entry 18). -/
def FaultsOnRecord (s : State) : Prop :=
  s.phase = .running →
    programFaultsIn (sinceReset s.trace) = (illegalRequests (acceptedIn (sinceReset s.trace))).length

/-- The host's program has issued no illegal command since the last reset (R90). DESIGN CHOICE (notes entry 18): R90
does not say whether a reset ends a recorded fault; here a program starts anew at a reset, and an earlier fault stays in
the trace but is not counted. -/
def SafeProgram (s : State) : Prop := programFaultsIn (sinceReset s.trace) = 0

/-- The FXU runs, reset is not applied, the host keeps its duties at the coming edge and afterwards does no more than
hold its request until it transfers. -/
def QuietHost (s : State) : Prop :=
  s.phase = .running ∧ s.pins.rst = false ∧ brokenDuty s = none ∧ s.upcoming = []

/-- n edges from s, as the host's interface runs the machine. -/
def runEdges (n : Nat) (s : State) : Host.Outcome State Fault Refusal := Host.Core.run Sys2Proof.core n s

/-- The FXU runs, rst stays 0 at the coming edge and at all later ones, and the host breaks no duty at any edge of its
run (R26, R30, R107). What it offers, and when it takes responses, is free: any list of drives. -/
def DutifulHost (s : State) : Prop :=
  s.phase = .running ∧ s.pins.rst = false ∧ (∀ p ∈ s.upcoming, p.rst = false) ∧
    ∀ (n : Nat) (t : State), runEdges n s = .next t → brokenDuty t = none

/-- The transactions of the first n edges of the run from s, edge by edge, oldest first. -/
def runTransactions : Nat → State → List Transaction
  | 0, _ => []
  | n + 1, s =>
    match step s with
    | .next t => edgeTransactions s ++ runTransactions n t
    | _ => []

/-! ## Real values of float data -/

/-- The rational value of a signed magnitude in units. -/
def signedValue (f : FloatFmt) (neg : Bool) (mag : Nat) : ℚ :=
  (if neg then -(mag : ℚ) else (mag : ℚ)) / (unitsPerOne f : ℚ)

/-- `real(f)` of R12, in the rationals with -∞ and +∞; none for a NaN. -/
def extReal (f : FloatFmt) : Datum → Option (WithBot (WithTop ℚ))
  | .nan => none
  | .inf true => some ⊥
  | .inf false => some ((⊤ : WithTop ℚ) : WithBot (WithTop ℚ))
  | .fin neg mag => some (((signedValue f neg mag : ℚ) : WithTop ℚ) : WithBot (WithTop ℚ))

/-- A finite magnitude that some datum of the format has: at most p significand bits, none below the unit, and not
above the largest finite one (R12). -/
def Representable (f : FloatFmt) (mag : Nat) : Prop :=
  mag ≤ maxFinite f ∧ ∃ k e : Nat, k < 2 ^ precision f ∧ mag = k * 2 ^ e

/-- `RNE_F(r)` of a rational r >= 0 (R13). -/
def rneOf (f : FloatFmt) (r : ℚ) : Datum := rne f false (r.num.natAbs * unitsPerOne f) r.den

/-- Clamps a datum to [0.0, 1.0] before scaling, as the source's §7 and §9 describe; a NaN passes unchanged (R63). -/
def clampUnit (f : FloatFmt) : Datum → Datum
  | .nan => .nan
  | .inf true => .fin false 0
  | .inf false => .fin false (unitsPerOne f)
  | .fin true _ => .fin false 0
  | .fin false mag => .fin false (min mag (unitsPerOne f))

/-- A datum is subnormal: not zero, and below the smallest normal magnitude (R12). -/
def Datum.isSubnormal (f : FloatFmt) : Datum → Bool
  | .fin _ mag => decide (0 < mag ∧ mag < pow2 f.fracBits)
  | _ => false

/-- Flushes a subnormal datum to a zero of its sign (R64). -/
def flushSubnormal (f : FloatFmt) (d : Datum) : Datum :=
  match d with
  | .fin neg mag => if (Datum.fin neg mag).isSubnormal f then .fin neg 0 else .fin neg mag
  | d => d

end Sys2Proof.Machine
end

