-- ==== Sys2Proof/Certificates/Slice0/Obligations.lean ====
section
/-! DEFINITION. The statements about the model, for the provers. Each docstring names the rules it formalises. -/

open Sys2Proof Sys2Proof.Machine

/-! ## Encoding -/

/-- Decoding the word of a command gives the command back, on a table word too (R44, R48, R51, R53). -/
def Obligations.EncodeThenDecode : Prop :=
  ∀ i : Instr, i.wellFormed = true →
    decode (encode i) = .ok i ∧ decodeTableWord 8 (encode i).toNat = some i

/-- A word that decodes is the word of the command it decodes to, which is well formed: no legal word has two meanings
and no reserved bit is dropped (R44, R47, R52). -/
def Obligations.DecodeThenEncode : Prop :=
  ∀ (cmd : Cmd) (i : Instr), decode cmd = .ok i → encode i = cmd ∧ i.wellFormed = true

/-- The opcode map, word by word, and no other word is legal (R48). -/
def Obligations.LegalCommandWords : Prop :=
  (decode 0x10 = .ok .add8 ∧ decode 0x11 = .ok .add16 ∧ decode 0x20 = .ok .sub8 ∧ decode 0x21 = .ok .sub16 ∧
    decode 0x30 = .ok .mulw ∧
    decode 0x40 = .ok .f2x8f32 ∧ decode 0x41 = .ok .f2x16f32 ∧ decode 0x42 = .ok .f2x8f64 ∧ decode 0x43 = .ok .f2x16f64 ∧
    decode 0x50 = .ok .x2f8f32 ∧ decode 0x51 = .ok .x2f16f32 ∧ decode 0x52 = .ok .x2f8f64 ∧ decode 0x53 = .ok .x2f16f64 ∧
    decode 0x60 = .ok .widen ∧ decode 0x70 = .ok .narrow ∧ decode 0x80 = .ok .inv8 ∧ decode 0x81 = .ok .inv16 ∧
    decode 0x90 = .ok .min8 ∧ decode 0x91 = .ok .min16 ∧ decode 0xA0 = .ok .max8 ∧ decode 0xA1 = .ok .max16 ∧
    decode 0xB0 = .ok .cmp8 ∧ decode 0xB1 = .ok .cmp16) ∧
  ∀ cmd : Cmd, (∃ i, decode cmd = .ok i) ↔
    cmd ∈ ([0x10, 0x11, 0x20, 0x21, 0x30, 0x40, 0x41, 0x42, 0x43, 0x50, 0x51, 0x52, 0x53, 0x60, 0x70, 0x80, 0x81,
      0x90, 0x91, 0xA0, 0xA1, 0xB0, 0xB1] : List Cmd)

/-- The four classes of illegal words by their patterns and counts (R52), and what every illegal word does: the
IllegalCommand response RES = 0, ERR = 1 enters `Q` (R89), a fault is recorded, and nothing else changes (R90). That the
fault is an event of the model's history, after which the machine goes on, is the model's choice (notes entry 7). -/
def Obligations.IllegalWordClasses : Prop :=
  (∀ n : Nat, n < 256 →
    let op := n / 16
    let rsv := n / 4 % 4
    let f := n / 2 % 2
    let w := n % 2
    (decode (BitVec.ofNat 8 n) = .error .reservedOpZero ↔ op = 0x0) ∧
    (decode (BitVec.ofNat 8 n) = .error .reservedOpHigh ↔ 0xC ≤ op) ∧
    (decode (BitVec.ofNat 8 n) = .error .reservedBits ↔ 0x1 ≤ op ∧ op ≤ 0xB ∧ rsv ≠ 0) ∧
    (decode (BitVec.ofNat 8 n) = .error .wrongForm ↔
      rsv = 0 ∧ ((f = 1 ∧ op ∈ [0x1, 0x2, 0x3, 0x6, 0x7, 0x8, 0x9, 0xA, 0xB]) ∨ (w = 1 ∧ op ∈ [0x3, 0x6, 0x7])))) ∧
  (let count (k : IllegalClass) : Nat :=
      (List.range 256).countP (fun n => (cmdFields (BitVec.ofNat 8 n)).illegalClass == some k)
   count .reservedOpZero = 16 ∧ count .reservedOpHigh = 64 ∧ count .reservedBits = 132 ∧ count .wrongForm = 21) ∧
  ∀ (s : State) (k : IllegalClass), decode s.pins.cmd = .error k →
    acceptRequest s = .next { s with
      q := s.q ++ [{ rsp := { res := 0, err := true }, wait := extraLatency s }]
      trace := .programFault .illegalCommand :: s.trace }

/-! ## What each command answers

Each statement gives the whole next state: `Answers i s r` says that the response (zext(r), ERR = 0) enters `Q` and that
nothing else changes. A and B are the operand buses as unsigned numbers. -/

/-- ADD.W saturates at MAX(W) (R74). -/
def Obligations.AddAnswersSaturatedSum : Prop :=
  encode .add8 = 0x10 ∧ encode .add16 = 0x11 ∧
  ∀ s : State,
    Answers .add8 s (min (s.pins.a.toNat % 256 + s.pins.b.toNat % 256) 255) ∧
    Answers .add16 s (min (s.pins.a.toNat % 65536 + s.pins.b.toNat % 65536) 65535)

/-- SUB.W saturates at 0 (R75). The difference is taken in the integers. -/
def Obligations.SubAnswersSaturatedDifference : Prop :=
  encode .sub8 = 0x20 ∧ encode .sub16 = 0x21 ∧
  ∀ s : State,
    Answers .sub8 s (max ((s.pins.a.toNat % 256 : Nat) - (s.pins.b.toNat % 256 : Nat) : Int) 0).toNat ∧
    Answers .sub16 s (max ((s.pins.a.toNat % 65536 : Nat) - (s.pins.b.toNat % 65536 : Nat) : Int) 0).toNat

/-- MULW goes through binary64 (R83). -/
def Obligations.MulwAnswersBinary64Path : Prop :=
  encode .mulw = 0x30 ∧
  ∀ s : State,
    let fa := fmul .f64 (uintToFloat .f64 (s.pins.a.toNat % 256)) (reciprocal .f64 .w8)
    let fb := fmul .f64 (uintToFloat .f64 (s.pins.b.toNat % 256)) (reciprocal .f64 .w8)
    let prod := fmul .f64 (fmul .f64 fa fb) (maxFloat .f64 .w16)
    Answers .mulw s (satTrunc .f64 prod 65535)

/-- F2X.W.F scales in its own format, truncates and clamps (R61). -/
def Obligations.F2xAnswersScaledTruncation : Prop :=
  encode .f2x8f32 = 0x40 ∧ encode .f2x16f32 = 0x41 ∧ encode .f2x8f64 = 0x42 ∧ encode .f2x16f64 = 0x43 ∧
  ∀ s : State,
    let v32 := asDatum .f32 (s.pins.a.toNat % 2 ^ 32)
    let v64 := asDatum .f64 s.pins.a.toNat
    Answers .f2x8f32 s (satTrunc .f32 (fmul .f32 v32 (maxFloat .f32 .w8)) 255) ∧
    Answers .f2x16f32 s (satTrunc .f32 (fmul .f32 v32 (maxFloat .f32 .w16)) 65535) ∧
    Answers .f2x8f64 s (satTrunc .f64 (fmul .f64 v64 (maxFloat .f64 .w8)) 255) ∧
    Answers .f2x16f64 s (satTrunc .f64 (fmul .f64 v64 (maxFloat .f64 .w16)) 65535)

/-- X2F.W.F multiplies by the rounded reciprocal (R66). -/
def Obligations.X2fAnswersReciprocalProduct : Prop :=
  encode .x2f8f32 = 0x50 ∧ encode .x2f16f32 = 0x51 ∧ encode .x2f8f64 = 0x52 ∧ encode .x2f16f64 = 0x53 ∧
  ∀ s : State,
    let a8 := s.pins.a.toNat % 256
    let a16 := s.pins.a.toNat % 65536
    Answers .x2f8f32 s (datumBits .f32 (fmul .f32 (uintToFloat .f32 a8) (reciprocal .f32 .w8))) ∧
    Answers .x2f16f32 s (datumBits .f32 (fmul .f32 (uintToFloat .f32 a16) (reciprocal .f32 .w16))) ∧
    Answers .x2f8f64 s (datumBits .f64 (fmul .f64 (uintToFloat .f64 a8) (reciprocal .f64 .w8))) ∧
    Answers .x2f16f64 s (datumBits .f64 (fmul .f64 (uintToFloat .f64 a16) (reciprocal .f64 .w16)))

/-- WIDEN multiplies by 257, which repeats the byte (R80). -/
def Obligations.WidenAnswersTimes257 : Prop :=
  encode .widen = 0x60 ∧
  ∀ s : State,
    let a := s.pins.a.toNat % 256
    Answers .widen s (a * 257) ∧ a * 257 ≤ 65535 ∧ a * 257 = a * 256 + a

/-- NARROW divides by 257 and truncates (R81). -/
def Obligations.NarrowAnswersQuotientBy257 : Prop :=
  encode .narrow = 0x70 ∧
  ∀ s : State,
    let a := s.pins.a.toNat % 65536
    Answers .narrow s (a / 257) ∧ a / 257 ≤ 255

/-- INV.W is MAX(W) - a, the W-bit complement (R78). -/
def Obligations.InvAnswersComplement : Prop :=
  encode .inv8 = 0x80 ∧ encode .inv16 = 0x81 ∧
  ∀ s : State,
    Answers .inv8 s (255 - s.pins.a.toNat % 256) ∧ Answers .inv8 s (~~~ s.pins.a.setWidth 8).toNat ∧
    Answers .inv16 s (65535 - s.pins.a.toNat % 65536) ∧ Answers .inv16 s (~~~ s.pins.a.setWidth 16).toNat

/-- MIN.W is the smaller raw value (R70). -/
def Obligations.MinAnswersSmaller : Prop :=
  encode .min8 = 0x90 ∧ encode .min16 = 0x91 ∧
  ∀ s : State,
    Answers .min8 s (min (s.pins.a.toNat % 256) (s.pins.b.toNat % 256)) ∧
    Answers .min16 s (min (s.pins.a.toNat % 65536) (s.pins.b.toNat % 65536))

/-- MAX.W is the larger raw value (R71). -/
def Obligations.MaxAnswersLarger : Prop :=
  encode .max8 = 0xA0 ∧ encode .max16 = 0xA1 ∧
  ∀ s : State,
    Answers .max8 s (max (s.pins.a.toNat % 256) (s.pins.b.toNat % 256)) ∧
    Answers .max16 s (max (s.pins.a.toNat % 65536) (s.pins.b.toNat % 65536))

/-- CMP.W is one-hot: 1 if a < b, 2 if a = b, 4 if a > b (R72). -/
def Obligations.CmpAnswersOneHot : Prop :=
  encode .cmp8 = 0xB0 ∧ encode .cmp16 = 0xB1 ∧
  ∀ s : State,
    let a8 := s.pins.a.toNat % 256
    let b8 := s.pins.b.toNat % 256
    let a16 := s.pins.a.toNat % 65536
    let b16 := s.pins.b.toNat % 65536
    Answers .cmp8 s (if a8 < b8 then 1 else if a8 = b8 then 2 else 4) ∧
    Answers .cmp16 s (if a16 < b16 then 1 else if a16 = b16 then 2 else 4)

/-- A bit of A or B outside a command's operand fields has no effect on RES or ERR, whatever its value (R49). -/
def Obligations.UnreadOperandBitsIgnored : Prop :=
  ∀ (i : Instr) (s : State) (a b : Bus),
    a.toNat % 2 ^ i.bitsOfA = s.pins.a.toNat % 2 ^ i.bitsOfA →
    b.toNat % 2 ^ i.bitsOfB = s.pins.b.toNat % 2 ^ i.bitsOfB →
    ∃ r, Answers i s r ∧ Answers i { s with pins := { s.pins with a := a, b := b } } r

/-- Every command answers with ERR = 0 and a result that fits its result field, so that RES is 0 above the field (R50);
no operand value makes one fail (R87). -/
def Obligations.ResultFitsItsField : Prop :=
  ∀ (i : Instr) (s : State), ∃ r, r < 2 ^ i.resultBits ∧ Answers i s r

/-! ## A step of the machine -/

/-- At an edge where a request with a legal word transfers, the step is `exec` of the command decoded, run on the
captured operands, between the edge's response transfer and its bookkeeping (R26, R41, R51). `Q` and the history of the
next state are those `exec` leaves: what the response channel left, then the command's response and the acceptance. -/
def Obligations.StepRunsDecodedCommand : Prop :=
  ∀ (s : State) (i : Instr), brokenDuty s = none → reqTransfers s = true → decode s.pins.cmd = .ok i →
    (capture (responseSide s)).pins = s.pins ∧
    ∃ t, exec i (capture (responseSide s)) = .next t ∧ step s = .next (endEdge s t) ∧
      (endEdge s t).q = t.q ∧ (endEdge s t).trace = t.trace ∧ (endEdge s t).phase = .running ∧
      t.q = (responseSide s).q ++ [{ rsp := execResponse s.pins.request, wait := extraLatency s }] ∧
      t.trace = .accepted s.pins.request :: (responseSide s).trace

/-- At an edge where a request with an illegal word transfers, it is accepted and answered in its place with RES = 0 and
ERR = 1, whatever A and B are, and a fault is recorded; the machine goes on (R88 to R91). That the acceptance and the
fault are events of the model's history is the model's choice (notes entry 7). -/
def Obligations.StepAnswersIllegalCommand : Prop :=
  ∀ (s : State) (k : IllegalClass), brokenDuty s = none → reqTransfers s = true → decode s.pins.cmd = .error k →
    ∃ t, step s = .next t ∧
      t.q = (responseSide s).q ++ [{ rsp := { res := 0, err := true }, wait := extraLatency s }] ∧
      t.trace = .programFault .illegalCommand :: .accepted s.pins.request :: (responseSide s).trace ∧
      t.phase = .running

/-- At an edge without reset where no request transfers, nothing enters `Q`: the step is the response channel's part and
the bookkeeping, and `Q` and the history of the next state are those the response channel leaves (R26, R29). -/
def Obligations.StepWithoutRequestTransfer : Prop :=
  ∀ s : State, s.phase = .running → s.pins.rst = false → brokenDuty s = none → reqTransfers s = false →
    ∃ t, step s = .next t ∧ t = endEdge s (responseSide s) ∧
      t.q = (responseSide s).q ∧ t.trace = (responseSide s).trace ∧ t.phase = .running ∧
      acceptedIn t.trace = acceptedIn s.trace ∧
      responses t = if rspTransfers s then (responses s).tail else responses s

/-- Where a response transfers, it is the oldest one, it is what stands on the response bus, and it is emitted exactly
once (R27, R28, R31). -/
def Obligations.ResponseTransferEmitsOldest : Prop :=
  ∀ s : State, brokenDuty s = none → rspTransfers s = true →
    ∃ e rest t, s.q = e :: rest ∧ rspBus s = e.rsp ∧ step s = .next t ∧
      deliveredIn t.trace = deliveredIn s.trace ++ [e.rsp] ∧
      responses t = rest.map InFlight.rsp ++
        (if reqTransfers s then [execResponse s.pins.request] else [])

/-- The machine stops exactly where the host of a running FXU breaks a duty, and nothing is refused: no operand, no
command word and no sequence of them stops it (R26, R87, R90, R107). The request that the host must hold is the one on
the pins at an edge without reset, if it was offered there and did not transfer; after any other edge there is none.
That the stop is a fault, and that a reset edge ends the duty to hold, are the model's choices (notes entry 6). -/
def Obligations.StopsExactlyOnBrokenDuty : Prop :=
  ∀ s : State,
    ((∃ f, step s = .fault f) ↔
      s.phase = .running ∧ s.pins.rst = false ∧
        ((∃ r, s.held = some r ∧ ¬ (s.pins.reqValid = true ∧ s.pins.request = r)) ∨
          (s.pins.reqValid = true ∧ s.pins.undriven = true))) ∧
    (∀ r, step s ≠ .refused r) ∧
    ∀ t, step s = .next t →
      t.held = if s.phase = .running ∧ s.pins.rst = false ∧ s.pins.reqValid = true ∧ reqTransfers s = false
        then some s.pins.request else none

/-- An edge with rst = 1 transfers nothing and empties `Q`: what was in flight is never delivered, and the numbering of
responses restarts (R102, R103). -/
def Obligations.ResetEdgeEmptiesQueue : Prop :=
  ∀ s : State, s.pins.rst = true →
    reqTransfers s = false ∧ rspTransfers s = false ∧
    ∃ t, step s = .next t ∧ t.q = [] ∧ t.phase = .running ∧ rspValid t = false ∧
      acceptedIn t.trace = acceptedIn s.trace ∧ deliveredIn t.trace = deliveredIn s.trace ∧
      acceptedIn (sinceReset t.trace) = [] ∧ deliveredIn (sinceReset t.trace) = []

/-- Holding rst = 1 for more edges has the same result as one (R104). -/
def Obligations.LongResetSameAsShort : Prop :=
  ∀ (n : Nat) (s : State), s.pins.rst = true → n ≤ s.upcoming.length →
    (∀ p ∈ s.upcoming.take n, p.rst = true) →
    ∃ t, runEdges (n + 1) s = .next t ∧ t.q = [] ∧ t.phase = .running ∧ rspValid t = false ∧
      deliveredIn t.trace = deliveredIn s.trace

/-- After reset `Q` is empty and rsp_valid = 0, whatever the host drives; while rst = 1 neither req_ready nor rsp_valid
is 1 (R32). -/
def Obligations.ResetState : Prop :=
  State.reset.q = [] ∧ State.reset.phase = .running ∧
  ∀ p : Pins, rspValid { State.reset with pins := p } = false ∧
    (p.rst = true → reqReady { State.reset with pins := p } = false)

/-- Before the first reset the model counts no transfer and lets only the wires move on. This is the model's choice
(notes entry 11): the spec leaves everything there unspecified (R32, R105). -/
def Obligations.BeforeFirstResetNothingTransfers : Prop :=
  ∀ s : State, s.phase = .unreset → s.pins.rst = false →
    reqTransfers s = false ∧ rspTransfers s = false ∧
    ∃ t, step s = .next t ∧ t.q = s.q ∧ t.phase = .unreset ∧ t.trace = s.trace

/-- A response once valid stays valid and unchanged until it transfers, unless a reset intervenes (R27). -/
def Obligations.ResponseHeldUntilTaken : Prop :=
  ∀ s t : State, s.phase = .running → rspValid s = true → s.pins.rspReady = false → step s = .next t →
    t.pins.rst = false → rspValid t = true ∧ rspBus t = rspBus s

/-- req_ready = 0 while length(Q) = DEPTH or rst = 1; rsp_valid = 0 while rst = 1 or `Q` is empty; and only the head of
`Q` is ever offered (R29, R102). -/
def Obligations.OutputsFollowQueue : Prop :=
  ∀ s : State, s.phase = .running →
    (s.q.length = Config.depth → reqReady s = false) ∧
    (s.pins.rst = true → reqReady s = false ∧ rspValid s = false) ∧
    (s.q = [] → rspValid s = false) ∧
    (rspValid s = true → (responses s).head? = some (rspBus s))

/-! ## Invariants -/

/-- The machine after reset has every invariant (R29, R28, R90). That faults are counted from the last reset is the
model's choice (notes entries 7 and 18). -/
def Obligations.InvariantsHoldAtReset : Prop :=
  QueueWithinDepth State.reset ∧ AnsweredInOrder State.reset ∧ FaultsOnRecord State.reset ∧
    SafeProgram State.reset

/-- Every step keeps the length of `Q` within DEPTH (R29). -/
def Obligations.StepKeepsQueueWithinDepth : Prop :=
  ∀ s t : State, QueueWithinDepth s → step s = .next t → QueueWithinDepth t

/-- Every step keeps the order: the n-th response after a reset answers the n-th request after it, and none is lost,
duplicated or reordered (R25, R28). -/
def Obligations.StepKeepsAnsweredInOrder : Prop :=
  ∀ s t : State, AnsweredInOrder s → step s = .next t → AnsweredInOrder t

/-- Every step keeps one recorded fault for each illegal request accepted since the last reset, and no other (R90). That
the fault is an event of the history, counted from the last reset, is the model's choice (notes entries 7 and 18). -/
def Obligations.StepKeepsFaultsOnRecord : Prop :=
  ∀ s t : State, FaultsOnRecord s → step s = .next t → FaultsOnRecord t

/-- Every run of clock edges is a run of the transaction-level model (R31): the transactions of its edges, a reset where
rst = 1 and else the delivery and the acceptance that take place, are all enabled, take `Q` at the start to `Q` at the
end, emit what the run delivers, and accept what it accepts. Before the first reset no transaction takes place (notes
entry 11); the order within one edge is that of notes entry 14. -/
def Obligations.RunRefinesTransactions : Prop :=
  ∀ (n : Nat) (s t : State), runEdges n s = .next t →
    ∃ out, transactAll Config.depth (runTransactions n s) (responses s) = some (out, responses t) ∧
      deliveredIn t.trace = deliveredIn s.trace ++ out ∧
      acceptedIn t.trace = acceptedIn s.trace ++ (runTransactions n s).filterMap Transaction.acceptedRequest

/-- A response depends on its own request alone: two machines in any states that accept the same request enter the same
response, EXEC of the request (R2, R25). -/
def Obligations.ResponseDependsOnRequestOnly : Prop :=
  ∀ s s' : State, brokenDuty s = none → brokenDuty s' = none → reqTransfers s = true → reqTransfers s' = true →
    s.pins.request = s'.pins.request →
    ∃ t t', step s = .next t ∧ step s' = .next t' ∧
      (responses t).getLast? = some (execResponse s.pins.request) ∧
      (responses t').getLast? = some (execResponse s.pins.request)

/-- A response becomes valid no earlier than LAT edges after its request transfers, and in finite time (R30), for every
host that keeps its duties while rst stays 0. A request that transfers enters `Q` with LAT - 1 edges to wait. Before that
many edges have passed, no more than the responses ahead of it are delivered, and when those are, rsp_valid is 0. The
oldest response becomes valid after exactly the edges it has to wait, and is then on the bus. The count `wait`, fixed as
the request transfers, is the model's form of LAT (notes entry 3). -/
def Obligations.OldestResponseBecomesValid : Prop :=
  ∀ s : State, DutifulHost s →
    (reqTransfers s = true → ∃ t, step s = .next t ∧
      t.q.getLast? = some { rsp := execResponse s.pins.request, wait := extraLatency s }) ∧
    (∀ (i : Nat) (e : InFlight) (n : Nat) (t : State), s.q[i]? = some e → n < e.wait → runEdges n s = .next t →
      (deliveredIn t.trace).length ≤ (deliveredIn s.trace).length + i ∧
      ((deliveredIn t.trace).length = (deliveredIn s.trace).length + i → rspValid t = false)) ∧
    ∀ (e : InFlight) (rest : List InFlight), s.q = e :: rest →
      ∃ t, runEdges e.wait s = .next t ∧ rspValid t = true ∧ rspBus t = e.rsp

/-- The oldest response is delivered, to every host that keeps its duties while rst stays 0, at the first edge after its
latency has passed at which the host takes a response; nothing is delivered before (R27, R30). The number of edges it
waits is the model's form of LAT (notes entry 3). -/
def Obligations.OldestResponseIsDelivered : Prop :=
  ∀ (s : State) (e : InFlight) (rest : List InFlight), DutifulHost s → s.q = e :: rest →
    ∀ (n : Nat) (t : State), e.wait ≤ n → runEdges n s = .next t → t.pins.rspReady = true →
      (∀ (m : Nat) (u : State), e.wait ≤ m → m < n → runEdges m s = .next u → u.pins.rspReady = false) →
      deliveredIn t.trace = deliveredIn s.trace ∧
      ∃ u, runEdges (n + 1) s = .next u ∧ deliveredIn u.trace = deliveredIn s.trace ++ [e.rsp]

/-- While `Q` is not full the FXU raises req_ready in finitely many edges, and a request offered is accepted then, for
every host that keeps its duties while rst stays 0 (R26, R30). The count `readyIn` of edges is the model's form of "any
other finite time" (notes entry 2). -/
def Obligations.OfferedRequestIsAccepted : Prop :=
  ∀ s : State, DutifulHost s → s.q.length < Config.depth →
    (∃ t, runEdges s.readyIn s = .next t ∧ reqReady t = true) ∧
    (s.pins.reqValid = true →
      ∃ t, runEdges (s.readyIn + 1) s = .next t ∧ acceptedIn t.trace = acceptedIn s.trace ++ [s.pins.request])

/-- A command word placed with withFetchWord is accepted and run by the very next step (notes entry 8). -/
def Obligations.FetchWordRunsNext : Prop :=
  ∀ (s : State) (w : Nat) (i : Instr), w < 256 → decode (BitVec.ofNat 8 w) = .ok i →
    let u := s.withFetchWord 8 w
    u.pins.a = s.pins.a ∧ u.pins.b = s.pins.b ∧
    ∃ t, exec i (capture (responseSide u)) = .next t ∧ step u = .next (endEdge u t)

/-! ## Laws of the commands -/

/-- The laws of ADD, and that it computes min(x + y, 1) of the represented reals (R76). -/
def Obligations.AddLaws : Prop :=
  ∀ (w : FracWidth) (a b c : Nat), a ≤ w.maxRaw → b ≤ w.maxRaw → c ≤ w.maxRaw →
    let add := resultOf (addAt w)
    add a b = add b a ∧
    add (add a b) c = min (a + b + c) w.maxRaw ∧ add a (add b c) = min (a + b + c) w.maxRaw ∧
    add a 0 = a ∧ add a w.maxRaw = w.maxRaw ∧ max a b ≤ add a b ∧
    ((add a b : ℚ) / w.maxRaw = min ((a : ℚ) / w.maxRaw + (b : ℚ) / w.maxRaw) 1)

/-- The laws of SUB, and that it computes max(x - y, 0) of the represented reals (R77). -/
def Obligations.SubLaws : Prop :=
  ∀ (w : FracWidth) (a b : Nat), a ≤ w.maxRaw → b ≤ w.maxRaw →
    let add := resultOf (addAt w)
    let sub := resultOf (subAt w)
    sub a 0 = a ∧ (sub a b = 0 ↔ a ≤ b) ∧ sub a b ≤ a ∧
    (sub (add a b) b = a ↔ a + b ≤ w.maxRaw) ∧ add (sub a b) b = max a b ∧
    ((sub a b : ℚ) / w.maxRaw = max ((a : ℚ) / w.maxRaw - (b : ℚ) / w.maxRaw) 0)

/-- The laws of INV (R79). -/
def Obligations.InvLaws : Prop :=
  ∀ (w : FracWidth) (a b : Nat), a ≤ w.maxRaw → b ≤ w.maxRaw →
    let inv := fun x => resultOf (invAt w) x 0
    inv (inv a) = a ∧ inv a = w.maxRaw - a ∧ inv a = (~~~ BitVec.ofNat w.bits a).toNat ∧ (a < b ↔ inv b < inv a) ∧
    ((inv a : ℚ) / w.maxRaw = 1 - (a : ℚ) / w.maxRaw) ∧
    inv (resultOf (addAt w) a b) = resultOf (subAt w) (inv a) b ∧
    ((resultOf (subAt w) (inv a) b : Int) = max ((w.maxRaw : Int) - a - b) 0)

/-- The laws of the width converters (R82). -/
def Obligations.WidthRoundTripLaws : Prop :=
  let widen := fun x => resultOf .widen x 0
  let narrow := fun y => resultOf .narrow y 0
  (∀ x, x ≤ 255 → narrow (widen x) = x) ∧
  (∀ y, y ≤ 65535 → (widen (narrow y) = y ↔ 257 ∣ y) ∧ (¬ 257 ∣ y → widen (narrow y) < y)) ∧
  (∀ x x', x < x' → x' ≤ 255 → widen x < widen x') ∧
  (∀ y y', y ≤ y' → y' ≤ 65535 → narrow y ≤ narrow y')

/-- The order of raws is the order of the represented reals and of the floats X2F returns, and MIN, MAX and CMP follow it
(R73). -/
def Obligations.OrderLaw : Prop :=
  ∀ (w : FracWidth) (f : FloatFmt) (a b : Nat), a ≤ w.maxRaw → b ≤ w.maxRaw →
    let real := fun r : Nat => (r : ℚ) / w.maxRaw
    let flt := fun r : Nat => extReal f (asDatum f (resultOf (x2fAt w f) r 0))
    (a < b ↔ real a < real b) ∧
    (resultOf (cmpAt w) a b = 1 ↔ real a < real b) ∧ (resultOf (cmpAt w) a b = 2 ↔ real a = real b) ∧
    (resultOf (cmpAt w) a b = 4 ↔ real b < real a) ∧
    real (resultOf (minAt w) a b) = min (real a) (real b) ∧ real (resultOf (maxAt w) a b) = max (real a) (real b) ∧
    ∃ x y, flt a = some x ∧ flt b = some y ∧ (a < b ↔ x < y) ∧
      flt (resultOf (minAt w) a b) = some (min x y) ∧ flt (resultOf (maxAt w) a b) = some (max x y)

/-- MULW is the truncated exact product, less one on the 280 pairs of E, with the facts R84 gives about E and the sum of
the whole table (R84). -/
def Obligations.MulwIntegerForm : Prop :=
  (∀ a b : Nat, a ≤ 255 → b ≤ 255 →
    resultOf .mulw a b = a * b * 257 / 255 - (if SpecTables.inE a b then 1 else 0)) ∧
  (∀ a b : Nat, SpecTables.inE a b = true → a ≤ 255 ∧ b ≤ 255 ∧ 255 ∣ a * b ∧ SpecTables.inE b a = true) ∧
  (let pairs := (List.range 256).flatMap (fun a => (List.range 256).map (fun b => (a, b)))
   pairs.countP (fun p => SpecTables.inE p.1 p.2) = 280 ∧
   pairs.countP (fun p => p.1 * p.2 % 255 == 0) = 1996 ∧
   (pairs.map fun p => resultOf .mulw p.1 p.2).sum = 1073693390 ∧
   (pairs.map fun p => p.1 * p.2 * 257 / 255).sum = 1073693390 + 280)

/-- The laws of MULW (R85): commutative, zero, monotone, 65535 only at the top, and 257 * b less the exceptions at
a = 255. -/
def Obligations.MulwLaws : Prop :=
  ∀ a b : Nat, a ≤ 255 → b ≤ 255 →
    let mulw := resultOf .mulw
    mulw a b = mulw b a ∧ mulw 0 b = 0 ∧ mulw a 0 = 0 ∧
    (∀ b', b < b' → b' ≤ 255 → mulw a b ≤ mulw a b' ∧ (1 ≤ a → mulw a b < mulw a b')) ∧
    (mulw a b = 65535 ↔ a = 255 ∧ b = 255) ∧
    mulw 255 b = resultOf .widen b 0 - (if SpecTables.inE 255 b then 1 else 0)

/-- The document's 0.5 x 0.5 case (R86). -/
def Obligations.HalfTimesHalf : Prop :=
  resultOf .f2x8f32 0x3F000000 0 = 127 ∧ resultOf .mulw 127 127 = 16255 ∧
  resultOf .x2f16f64 16255 0 = 0x3FCFBF9FBF9FBFA0 ∧ resultOf .x2f16f32 16255 0 = 0x3E7DFCFE ∧
  16255 = ⌊((127 : ℚ) / 255) ^ 2 * 65535⌋

/-- F2X clamps below 0 and above 1, and between them is the truncated rounded product (R62). -/
def Obligations.F2xClampingLaw : Prop :=
  ∀ (w : FracWidth) (f : FloatFmt) (a : Bus) (x : WithBot (WithTop ℚ)), extReal f (floatOperand f a) = some x →
    let r := resultOf (f2xAt w f) a.toNat 0
    (x < 0 → r = 0) ∧ (1 < x → r = w.maxRaw) ∧
    ∀ q : ℚ, x = ((q : WithTop ℚ) : WithBot (WithTop ℚ)) → 0 ≤ q → q ≤ 1 →
      ∃ mag, rneOf f (q * w.maxRaw) = .fin false mag ∧ (r : Int) = ⌊signedValue f false mag⌋ ∧ r ≤ w.maxRaw

/-- Clamping before scaling gives the same result as clamping in the cast (R63). -/
def Obligations.F2xClampOrdersAgree : Prop :=
  ∀ (w : FracWidth) (f : FloatFmt) (a : Bus),
    resultOf (f2xAt w f) a.toNat 0 =
      satTrunc f (fmul f (clampUnit f (floatOperand f a)) (maxFloat f w)) w.maxRaw

/-- F2X of a subnormal is 0, and flushing subnormals changes no result (R64). -/
def Obligations.F2xIgnoresSubnormalHandling : Prop :=
  ∀ (w : FracWidth) (f : FloatFmt) (a : Bus),
    ((floatOperand f a).isSubnormal f = true → resultOf (f2xAt w f) a.toNat 0 = 0) ∧
    resultOf (f2xAt w f) a.toNat 0 =
      satTrunc f (fmul f (flushSubnormal f (floatOperand f a)) (maxFloat f w)) w.maxRaw

/-- F2X is monotone (R65). -/
def Obligations.F2xMonotone : Prop :=
  ∀ (w : FracWidth) (f : FloatFmt) (a a' : Bus) (x x' : WithBot (WithTop ℚ)),
    extReal f (floatOperand f a) = some x → extReal f (floatOperand f a') = some x' → x ≤ x' →
    resultOf (f2xAt w f) a.toNat 0 ≤ resultOf (f2xAt w f) a'.toNat 0

/-- X2F is exact at the endpoints, lies strictly between 0 and 1 elsewhere, and is normal and at least RCP_F(16) from
a = 1 on (R67). -/
def Obligations.X2fEndpointsAndRange : Prop :=
  ∀ (w : FracWidth) (f : FloatFmt),
    resultOf (x2fAt w f) 0 0 = 0 ∧
    resultOf (x2fAt w f) w.maxRaw 0 = (match f with | .f32 => 0x3F800000 | .f64 => 0x3FF0000000000000) ∧
    extReal f (asDatum f (resultOf (x2fAt w f) 0 0)) = some 0 ∧
    extReal f (asDatum f (resultOf (x2fAt w f) w.maxRaw 0)) = some 1 ∧
    ∃ least, reciprocal f .w16 = .fin false least ∧
      ∀ a : Nat, 1 ≤ a → a ≤ w.maxRaw →
        ∃ mag, asDatum f (resultOf (x2fAt w f) a 0) = .fin false mag ∧
          2 ^ f.fracBits ≤ mag ∧ least ≤ mag ∧ (a < w.maxRaw → mag < unitsPerOne f)

/-- X2F is strictly increasing, so it is injective, and CMP of raws is comparison of the floats (R68). -/
def Obligations.X2fStrictlyIncreasing : Prop :=
  ∀ (w : FracWidth) (f : FloatFmt) (a a' : Nat), a ≤ w.maxRaw → a' ≤ w.maxRaw →
    ∃ x x' : WithBot (WithTop ℚ),
      extReal f (asDatum f (resultOf (x2fAt w f) a 0)) = some x ∧
      extReal f (asDatum f (resultOf (x2fAt w f) a' 0)) = some x' ∧
      (a < a' → x < x') ∧ (resultOf (x2fAt w f) a 0 = resultOf (x2fAt w f) a' 0 → a = a') ∧
      resultOf (cmpAt w) a a' = (if x < x' then 1 else if x = x' then 2 else 4)

/-- The round trip through float gives r, or r - 1 on the listed raws (R69). -/
def Obligations.FloatRoundTrip : Prop :=
  let trip := fun (w : FracWidth) (f : FloatFmt) (r : Nat) => resultOf (f2xAt w f) (resultOf (x2fAt w f) r 0) 0
  (∀ r, r ≤ 255 → trip .w8 .f32 r = r) ∧
  (∀ r, r ≤ 255 → trip .w8 .f64 r = if r ∈ SpecTables.roundTripLow8F64 then r - 1 else r) ∧
  (∀ r, r ≤ 65535 → trip .w16 .f32 r = if r ∈ SpecTables.roundTripLow16F32 then r - 1 else r) ∧
  (∀ r, r ≤ 65535 → trip .w16 .f64 r = if r ∈ SpecTables.roundTripLow16F64 then r - 1 else r)

/-! ## Float primitives -/

/-- The formats: which patterns are NaNs and infinities, what the others are worth, and that a datum has the pattern it
was read from (R12). -/
def Obligations.FormatsReadAndWrite : Prop :=
  ∀ (f : FloatFmt) (x : Nat), x < 2 ^ (1 + f.expBits + f.fracBits) →
    let neg := decide (2 ^ (f.expBits + f.fracBits) ≤ x)
    let exp := x / 2 ^ f.fracBits % 2 ^ f.expBits
    let frac := x % 2 ^ f.fracBits
    (asDatum f x = .nan ↔ exp = 2 ^ f.expBits - 1 ∧ frac ≠ 0) ∧
    (asDatum f x = .inf neg ↔ exp = 2 ^ f.expBits - 1 ∧ frac = 0) ∧
    (exp = 0 → ∃ mag, asDatum f x = .fin neg mag ∧
      signedValue f false mag = (frac : ℚ) / 2 ^ f.fracBits * (2 : ℚ) ^ (1 - (emax f : Int))) ∧
    (0 < exp → exp < 2 ^ f.expBits - 1 → ∃ mag, asDatum f x = .fin neg mag ∧
      signedValue f false mag = (1 + (frac : ℚ) / 2 ^ f.fracBits) * (2 : ℚ) ^ ((exp : Int) - (emax f : Int))) ∧
    (asDatum f x ≠ .nan → datumBits f (asDatum f x) = x)

/-- RNE_F gives an infinity from the largest finite magnitude on, and below it the nearest magnitude the format has, on
a tie the one with an even significand (R13). The real rounded is num / den units. -/
def Obligations.RneIsNearestTiesToEven : Prop :=
  ∀ (f : FloatFmt) (neg : Bool) (num den : Nat), 0 < den →
    (maxFinite f * den ≤ num → rne f neg num den = .inf neg) ∧
    (num < maxFinite f * den → ∃ m, rne f neg num den = .fin neg m ∧ Representable f m ∧
      ∀ m', Representable f m' →
        |(num : Int) - m * den| ≤ |(num : Int) - m' * den| ∧
        (m' ≠ m → |(num : Int) - m * den| = |(num : Int) - m' * den| → m / 2 ^ lastBit f m % 2 = 0))

/-- sat_trunc: NaN gives 0, the infinities clamp, and a finite datum is truncated toward zero and clamped (R16). -/
def Obligations.SatTruncTruncatesAndClamps : Prop :=
  ∀ (f : FloatFmt) (m : Nat),
    satTrunc f .nan m = 0 ∧ satTrunc f (.inf true) m = 0 ∧ satTrunc f (.inf false) m = m ∧
    ∀ (neg : Bool) (mag : Nat),
      let q := signedValue f neg mag
      let t : Int := if q < 0 then ⌈q⌉ else ⌊q⌋
      ((satTrunc f (.fin neg mag) m : Nat) : Int) = if t ≤ 0 then 0 else if (m : Int) ≤ t then (m : Int) else t

/-- The constants of R17: the reciprocals are 1 / MAX(W) rounded once, uint_to_F is exact, and the bit patterns are those
of the table (R15, R17). -/
def Obligations.FloatConstants : Prop :=
  (∀ (f : FloatFmt) (w : FracWidth), reciprocal f w = rneOf f (1 / (w.maxRaw : ℚ)) ∧
    maxFloat f w = uintToFloat f w.maxRaw) ∧
  (∀ (f : FloatFmt) (n : Nat), n ≤ 65535 → uintToFloat f n = .fin false (n * unitsPerOne f)) ∧
  datumBits .f32 (reciprocal .f32 .w8) = 0x3B808081 ∧ datumBits .f32 (reciprocal .f32 .w16) = 0x37800080 ∧
  datumBits .f64 (reciprocal .f64 .w8) = 0x3F70101010101010 ∧
  datumBits .f64 (reciprocal .f64 .w16) = 0x3EF0001000100010 ∧
  datumBits .f32 (maxFloat .f32 .w8) = 0x437F0000 ∧ datumBits .f64 (maxFloat .f64 .w8) = 0x406FE00000000000 ∧
  datumBits .f32 (maxFloat .f32 .w16) = 0x477FFF00 ∧ datumBits .f64 (maxFloat .f64 .w16) = 0x40EFFFE000000000

/-- fmul_F: the special cases, and one rounding of the exact product of finite data, with the sign the exclusive or of
the signs (R14). -/
def Obligations.FmulRoundsOnce : Prop :=
  ∀ (f : FloatFmt) (d : Datum) (s t : Bool) (m n : Nat),
    fmul f .nan d = .nan ∧ fmul f d .nan = .nan ∧
    fmul f (.inf s) (.fin t 0) = .nan ∧ fmul f (.fin t 0) (.inf s) = .nan ∧
    fmul f (.inf s) (.inf t) = .inf (s ^^ t) ∧
    (0 < m → fmul f (.inf s) (.fin t m) = .inf (s ^^ t) ∧ fmul f (.fin t m) (.inf s) = .inf (s ^^ t)) ∧
    (fmul f (.fin s m) (.fin t n) =
      match rneOf f (signedValue f false m * signedValue f false n) with
      | .fin _ mag => .fin (s ^^ t) mag
      | .inf _ => .inf (s ^^ t)
      | .nan => .nan)

/-! ## The host's programs -/

/-- The pseudo-operations: the literals FROMRAW, MAXVAL and DEFAULT stand for, and what ADDIP and SUBIP write back
(R55, R56). -/
def Obligations.PseudoOperations : Prop :=
  (∀ (w : FracWidth) (k : Nat), (Pseudo.fromRaw w k).literal = k ∧ (Pseudo.maxValue w).literal = 2 ^ w.bits - 1 ∧
    (Pseudo.defaultValue w).literal = 0) ∧
  ∀ (w : FracWidth) (x b : Bus),
    (InPlace.addip w).command = addAt w ∧ (InPlace.subip w).command = subAt w ∧
    (InPlace.addip w).writeBack x b = min (x.toNat % 2 ^ w.bits + b.toNat % 2 ^ w.bits) w.maxRaw ∧
    (InPlace.subip w).writeBack x b = x.toNat % 2 ^ w.bits - b.toNat % 2 ^ w.bits

/-- A script ends with EXEC of its requests, one response a line. Each request has the command word of its line, and as
operands the line's literals and the whole RES of the lines it names, counted from 1 (R60; that the whole RES is copied,
after an illegal command too, is the model's choice, notes entry 17). The transaction-level model, accepting and
delivering each request in turn, emits just these responses and ends with `Q` empty (R31). -/
def Obligations.ScriptMatchesTransactions : Prop :=
  ∀ (sofar out : List Response) (ls : List ScriptLine), runScript sofar ls = some out →
    ∃ rs : List Request, rs.length = ls.length ∧ out = sofar ++ rs.map execResponse ∧
      (∀ (i : Nat) (l : ScriptLine) (r : Request), ls[i]? = some l → rs[i]? = some r →
        let earlier := sofar ++ (rs.take i).map execResponse
        l.request earlier = some r ∧ r.cmd = l.cmd ∧
        (∀ v, l.a = .literal v → r.a = v) ∧ (∀ v, l.b = .literal v → r.b = v) ∧
        (∀ k, l.a = .result k → 1 ≤ k ∧ ∃ e, earlier[k - 1]? = some e ∧ r.a = e.res) ∧
        (∀ k, l.b = .result k → 1 ≤ k ∧ ∃ e, earlier[k - 1]? = some e ∧ r.b = e.res)) ∧
      transactAll Config.depth (rs.flatMap fun r => [.accept r, .deliver]) [] = some (rs.map execResponse, [])
end

