-- ==== Sys2Proof/Laws/Float.lean ====
section
/-! SUPPORT. The arithmetic under the float primitives in the library's own terms: powers of two, the leading bit, and
rounding to the nearest integer. -/

namespace Sys2Proof.Machine

@[simp] theorem pow2_eq (n : Nat) : pow2 n = 2 ^ n := by simp [pow2, Nat.shiftLeft_eq]

theorem slice_eq (v : Bus) (hi lo : Nat) : slice v hi lo = v.toNat / 2 ^ lo % 2 ^ (hi + 1 - lo) := by
  simp [slice]

theorem fracOperand_w8 (v : Bus) : fracOperand .w8 v = v.toNat % 256 := by
  simp [fracOperand, slice_eq, FracWidth.bits]

theorem fracOperand_w16 (v : Bus) : fracOperand .w16 v = v.toNat % 65536 := by
  simp [fracOperand, slice_eq, FracWidth.bits]

@[simp] theorem maxRaw_w8 : FracWidth.w8.maxRaw = 255 := rfl

@[simp] theorem maxRaw_w16 : FracWidth.w16.maxRaw = 65535 := rfl

theorem fracOperand_le_maxRaw (w : FracWidth) (v : Bus) : fracOperand w v ≤ w.maxRaw := by
  cases w
  · rw [fracOperand_w8, maxRaw_w8]; omega
  · rw [fracOperand_w16, maxRaw_w16]; omega

theorem zext64_toNat {r : Nat} (h : r < 2 ^ 64) : (zext64 r).toNat = r := by
  simpa [zext64] using h

/-! ## The leading bit -/

theorem log2Within_eq (k n : Nat) (h : n < 2 ^ 2 ^ k) : log2Within k n = n.log2 := by
  induction k generalizing n with
  | zero =>
    have : n = 0 ∨ n = 1 := by simp at h; omega
    rcases this with rfl | rfl <;> rfl
  | succ k ih =>
    unfold log2Within
    simp only [pow2_eq]
    split
    · rename_i hlt; exact ih n hlt
    · rename_i hge
      have hpos : 0 < 2 ^ 2 ^ k := Nat.two_pow_pos _
      have hq : n / 2 ^ 2 ^ k < 2 ^ 2 ^ k := by
        rw [Nat.div_lt_iff_lt_mul hpos, ← Nat.pow_add]
        convert h using 2
        rw [Nat.pow_succ]; ring
      have hn : n / 2 ^ 2 ^ k ≠ 0 := (Nat.div_pos (by omega) hpos).ne'
      have hn' : n ≠ 0 := by omega
      rw [ih _ hq, eq_comm, Nat.log2_eq_iff hn']
      have hl : 2 ^ (n / 2 ^ 2 ^ k).log2 ≤ n / 2 ^ 2 ^ k := Nat.log2_self_le hn
      have hu : n / 2 ^ 2 ^ k < 2 ^ ((n / 2 ^ 2 ^ k).log2 + 1) := Nat.lt_log2_self
      constructor
      · rw [Nat.pow_add]
        exact (Nat.mul_le_mul_left _ hl).trans (Nat.mul_div_le n _)
      · rw [Nat.add_assoc, Nat.pow_add]
        exact (Nat.lt_mul_div_succ n hpos).trans_le (Nat.mul_le_mul_left _ hu)

/-- The position of the leading 1 is the library's Nat.log2, for every n. -/
@[simp] theorem floorLog2_eq (n : Nat) : floorLog2 n = n.log2 := by
  unfold floorLog2
  split
  · rename_i h
    rw [pow2_eq, pow2_eq] at h
    exact log2Within_eq 13 n h
  · rfl

/-! ## Rounding to the nearest integer (R13) -/

/-- The rounded quotient is within half a divisor of the dividend. -/
theorem roundHalfEven_near (n : Nat) {d : Nat} (hd : 0 < d) :
    2 * (d * roundHalfEven n d) ≤ 2 * n + d ∧ 2 * n ≤ 2 * (d * roundHalfEven n d) + d := by
  have hn := Nat.div_add_mod n d
  have hm := Nat.mod_lt n hd
  unfold roundHalfEven
  split
  · omega
  · split
    · rw [Nat.mul_add]; omega
    · rcases Nat.mod_two_eq_zero_or_one (n / d) with h | h <;> rw [h, Nat.mul_add] <;> omega

/-- A tie goes to the even integer. -/
theorem roundHalfEven_tie_even {n d : Nat} (h : 2 * (n % d) = d) : roundHalfEven n d % 2 = 0 := by
  unfold roundHalfEven
  rw [if_neg (by omega), if_neg (by omega)]
  omega

/-- A multiple of the divisor is divided exactly. -/
@[simp] theorem roundHalfEven_mul (k : Nat) {d : Nat} (hd : 0 < d) : roundHalfEven (k * d) d = k := by
  simp [roundHalfEven, Nat.mul_div_cancel k hd, hd]

/-- Rounding is monotone. -/
theorem roundHalfEven_mono {n m : Nat} (h : n ≤ m) {d : Nat} (hd : 0 < d) :
    roundHalfEven n d ≤ roundHalfEven m d := by
  have hn := Nat.div_add_mod n d
  have hm := Nat.div_add_mod m d
  have hnl := Nat.mod_lt n hd
  have hml := Nat.mod_lt m hd
  have hq : n / d ≤ m / d := Nat.div_le_div_right h
  rcases hq.lt_or_eq with hlt | heq
  · have h1 : roundHalfEven n d ≤ n / d + 1 := by unfold roundHalfEven; split_ifs <;> omega
    have h2 : m / d ≤ roundHalfEven m d := by unfold roundHalfEven; split_ifs <;> omega
    omega
  · have hr : n % d ≤ m % d := by rw [heq] at hn; omega
    unfold roundHalfEven
    rw [heq]
    split_ifs <;> omega

/-! ## The primitives on finite data -/

theorem fmul_fin (f : FloatFmt) (s t : Bool) (m n : Nat) :
    fmul f (.fin s m) (.fin t n) = rne f (s != t) (m * n) (unitsPerOne f) := rfl

theorem rne_of_lt {f : FloatFmt} {neg : Bool} {num den : Nat} (h : num < maxFinite f * den) :
    rne f neg num den = .fin neg (rneMag f num den) := by
  simp [rne, Nat.not_le.2 h]

theorem rne_of_le {f : FloatFmt} {neg : Bool} {num den : Nat} (h : maxFinite f * den ≤ num) :
    rne f neg num den = .inf neg := by
  simp [rne, h]

theorem unitsPerOne_pos (f : FloatFmt) : 0 < unitsPerOne f := by
  rw [unitsPerOne, pow2_eq]
  exact Nat.two_pow_pos _

end Sys2Proof.Machine
end

