-- ==== Sys2Proof/Laws/State.lean ====
section
/-! SUPPORT. One lemma for each field of State under each update of the machine, so that no proof unfolds a record
update. -/

namespace Sys2Proof.Machine

@[simp] theorem extraLatency_capture (s : State) : extraLatency (capture s) = extraLatency s := rfl

@[simp] theorem enqueue_q (s : State) (r : Response) : (enqueue s r).q = s.q ++ [{ rsp := r, wait := extraLatency s }] := rfl
@[simp] theorem enqueue_phase (s : State) (r : Response) : (enqueue s r).phase = s.phase := rfl
@[simp] theorem enqueue_readyIn (s : State) (r : Response) : (enqueue s r).readyIn = s.readyIn := rfl
@[simp] theorem enqueue_pins (s : State) (r : Response) : (enqueue s r).pins = s.pins := rfl
@[simp] theorem enqueue_held (s : State) (r : Response) : (enqueue s r).held = s.held := rfl
@[simp] theorem enqueue_upcoming (s : State) (r : Response) : (enqueue s r).upcoming = s.upcoming := rfl
@[simp] theorem enqueue_tick (s : State) (r : Response) : (enqueue s r).tick = s.tick := rfl
@[simp] theorem enqueue_trace (s : State) (r : Response) : (enqueue s r).trace = s.trace := rfl

@[simp] theorem raiseIllegalCommand_q (s : State) : (raiseIllegalCommand s).q = s.q ++ [{ rsp := { res := 0, err := true }, wait := extraLatency s }] := rfl
@[simp] theorem raiseIllegalCommand_phase (s : State) : (raiseIllegalCommand s).phase = s.phase := rfl
@[simp] theorem raiseIllegalCommand_readyIn (s : State) : (raiseIllegalCommand s).readyIn = s.readyIn := rfl
@[simp] theorem raiseIllegalCommand_pins (s : State) : (raiseIllegalCommand s).pins = s.pins := rfl
@[simp] theorem raiseIllegalCommand_held (s : State) : (raiseIllegalCommand s).held = s.held := rfl
@[simp] theorem raiseIllegalCommand_upcoming (s : State) : (raiseIllegalCommand s).upcoming = s.upcoming := rfl
@[simp] theorem raiseIllegalCommand_tick (s : State) : (raiseIllegalCommand s).tick = s.tick := rfl
@[simp] theorem raiseIllegalCommand_trace (s : State) : (raiseIllegalCommand s).trace = .programFault .illegalCommand :: s.trace := rfl

@[simp] theorem capture_q (s : State) : (capture s).q = s.q := rfl
@[simp] theorem capture_phase (s : State) : (capture s).phase = s.phase := rfl
@[simp] theorem capture_readyIn (s : State) : (capture s).readyIn = s.readyIn := rfl
@[simp] theorem capture_pins (s : State) : (capture s).pins = s.pins := rfl
@[simp] theorem capture_held (s : State) : (capture s).held = s.held := rfl
@[simp] theorem capture_upcoming (s : State) : (capture s).upcoming = s.upcoming := rfl
@[simp] theorem capture_tick (s : State) : (capture s).tick = s.tick := rfl
@[simp] theorem capture_trace (s : State) : (capture s).trace = .accepted s.pins.request :: s.trace := rfl

@[simp] theorem endEdge_q (s t : State) : (endEdge s t).q = t.q := rfl
@[simp] theorem endEdge_phase (s t : State) : (endEdge s t).phase = t.phase := rfl
@[simp] theorem endEdge_readyIn (s t : State) : (endEdge s t).readyIn =
    (if s.readyIn = 0 then Config.reqStall s.tick (advancePins s (reqTransfers s)).1.reqValid else s.readyIn - 1) := rfl
@[simp] theorem endEdge_pins (s t : State) : (endEdge s t).pins = (advancePins s (reqTransfers s)).1 := rfl
@[simp] theorem endEdge_held (s t : State) : (endEdge s t).held =
    (if s.pins.reqValid && !reqTransfers s then some s.pins.request else none) := rfl
@[simp] theorem endEdge_upcoming (s t : State) : (endEdge s t).upcoming = (advancePins s (reqTransfers s)).2 := rfl
@[simp] theorem endEdge_tick (s t : State) : (endEdge s t).tick = s.tick + 1 := rfl
@[simp] theorem endEdge_trace (s t : State) : (endEdge s t).trace = t.trace := rfl

@[simp] theorem resetEdge_q (s : State) : (resetEdge s).q = [] := rfl
@[simp] theorem resetEdge_phase (s : State) : (resetEdge s).phase = .running := rfl
@[simp] theorem resetEdge_readyIn (s : State) : (resetEdge s).readyIn =
    Config.reqStall s.tick (advancePins s false).1.reqValid := rfl
@[simp] theorem resetEdge_pins (s : State) : (resetEdge s).pins = (advancePins s false).1 := rfl
@[simp] theorem resetEdge_held (s : State) : (resetEdge s).held = none := rfl
@[simp] theorem resetEdge_upcoming (s : State) : (resetEdge s).upcoming = (advancePins s false).2 := rfl
@[simp] theorem resetEdge_tick (s : State) : (resetEdge s).tick = s.tick + 1 := rfl
@[simp] theorem resetEdge_trace (s : State) : (resetEdge s).trace = .reset :: s.trace := rfl

@[simp] theorem unresetEdge_q (s : State) : (unresetEdge s).q = s.q := rfl
@[simp] theorem unresetEdge_phase (s : State) : (unresetEdge s).phase = s.phase := rfl
@[simp] theorem unresetEdge_readyIn (s : State) : (unresetEdge s).readyIn = s.readyIn := rfl
@[simp] theorem unresetEdge_pins (s : State) : (unresetEdge s).pins = (advancePins s false).1 := rfl
@[simp] theorem unresetEdge_held (s : State) : (unresetEdge s).held = none := rfl
@[simp] theorem unresetEdge_upcoming (s : State) : (unresetEdge s).upcoming = (advancePins s false).2 := rfl
@[simp] theorem unresetEdge_tick (s : State) : (unresetEdge s).tick = s.tick + 1 := rfl
@[simp] theorem unresetEdge_trace (s : State) : (unresetEdge s).trace = s.trace := rfl

@[simp] theorem offerCommand_q (s : State) (c : Cmd) : (offerCommand s c).q = (if s.q.length < Config.depth then s.q else []) := rfl
@[simp] theorem offerCommand_phase (s : State) (c : Cmd) : (offerCommand s c).phase = .running := rfl
@[simp] theorem offerCommand_readyIn (s : State) (c : Cmd) : (offerCommand s c).readyIn = 0 := rfl
@[simp] theorem offerCommand_pins (s : State) (c : Cmd) : (offerCommand s c).pins =
    { s.pins with rst := false, reqValid := true, cmd := c, undriven := false } := rfl
@[simp] theorem offerCommand_held (s : State) (c : Cmd) : (offerCommand s c).held = none := rfl
@[simp] theorem offerCommand_upcoming (s : State) (c : Cmd) : (offerCommand s c).upcoming = s.upcoming := rfl
@[simp] theorem offerCommand_tick (s : State) (c : Cmd) : (offerCommand s c).tick = s.tick := rfl
@[simp] theorem offerCommand_trace (s : State) (c : Cmd) : (offerCommand s c).trace = s.trace := rfl

@[simp] theorem responseSide_phase (s : State) : (responseSide s).phase = s.phase := by
  unfold responseSide; split <;> rfl

@[simp] theorem responseSide_readyIn (s : State) : (responseSide s).readyIn = s.readyIn := by
  unfold responseSide; split <;> rfl

@[simp] theorem responseSide_pins (s : State) : (responseSide s).pins = s.pins := by
  unfold responseSide; split <;> rfl

@[simp] theorem responseSide_held (s : State) : (responseSide s).held = s.held := by
  unfold responseSide; split <;> rfl

@[simp] theorem responseSide_upcoming (s : State) : (responseSide s).upcoming = s.upcoming := by
  unfold responseSide; split <;> rfl

@[simp] theorem responseSide_tick (s : State) : (responseSide s).tick = s.tick := by
  unfold responseSide; split <;> rfl

@[simp] theorem extraLatency_responseSide (s : State) : extraLatency (responseSide s) = extraLatency s := by
  simp [extraLatency]

end Sys2Proof.Machine
end

