-- ==== Sys2Proof/Laws/Ops.lean ====
section
/-! SUPPORT. What each shared operation can do, said once: the outputs, the response channel, executing a command,
accepting a request, and a step. -/

namespace Sys2Proof.Machine

/-! ## Outputs -/

theorem reqReady_running {s : State} (h : s.phase = .running) :
    reqReady s = true ↔ s.pins.rst = false ∧ s.readyIn = 0 ∧ s.q.length < Config.depth := by
  simp [reqReady, h, and_assoc]

theorem rspValid_running {s : State} (h : s.phase = .running) :
    rspValid s = true ↔ ∃ e rest, s.q = e :: rest ∧ s.pins.rst = false ∧ e.wait = 0 := by
  unfold rspValid
  rw [h]
  cases s.q <;> simp

theorem rspBus_of_valid {s : State} (h : s.phase = .running) (hv : rspValid s = true)
    {e : InFlight} {rest : List InFlight} (hq : s.q = e :: rest) : rspBus s = e.rsp := by
  simp [rspBus, h, hv, hq]

theorem reqTransfers_iff (s : State) : reqTransfers s = true ↔
    s.phase = .running ∧ s.pins.rst = false ∧ s.pins.reqValid = true ∧ s.readyIn = 0 ∧
      s.q.length < Config.depth := by
  by_cases h : s.phase = .running
  · simp only [reqTransfers, h, beq_self_eq_true, Bool.true_and, Bool.and_eq_true, Bool.not_eq_true',
      reqReady_running h, true_and]
    constructor
    · rintro ⟨⟨h1, h2⟩, -, h3, h4⟩; exact ⟨h1, h2, h3, h4⟩
    · rintro ⟨h1, h2, h3, h4⟩; exact ⟨⟨h1, h2⟩, h1, h3, h4⟩
  · simp [reqTransfers, h]

theorem rspTransfers_iff (s : State) : rspTransfers s = true ↔
    s.phase = .running ∧ s.pins.rst = false ∧ s.pins.rspReady = true ∧
      ∃ e rest, s.q = e :: rest ∧ e.wait = 0 := by
  by_cases h : s.phase = .running
  · simp only [rspTransfers, h, beq_self_eq_true, Bool.true_and, Bool.and_eq_true, Bool.not_eq_true',
      rspValid_running h, true_and]
    constructor
    · rintro ⟨⟨h1, e, rest, hq, -, hw⟩, h2⟩; exact ⟨h1, h2, e, rest, hq, hw⟩
    · rintro ⟨h1, h2, e, rest, hq, hw⟩; exact ⟨⟨h1, e, rest, hq, h1, hw⟩, h2⟩
  · simp [rspTransfers, h]

/-! ## The response channel -/

@[simp] theorem ageQueue_length (q : List InFlight) : (ageQueue q).length = q.length := by simp [ageQueue]

@[simp] theorem ageQueue_responses (q : List InFlight) :
    (ageQueue q).map InFlight.rsp = q.map InFlight.rsp := by
  simp [ageQueue, Function.comp_def]

@[simp] theorem ageQueue_nil : ageQueue [] = [] := rfl

@[simp] theorem ageQueue_cons (e : InFlight) (q : List InFlight) :
    ageQueue (e :: q) = { e with wait := e.wait - 1 } :: ageQueue q := rfl

theorem responseSide_of_transfer {s : State} (h : rspTransfers s = true) :
    ∃ e rest, s.q = e :: rest ∧ e.wait = 0 ∧
      responseSide s = { s with q := ageQueue rest, trace := .delivered e.rsp :: s.trace } := by
  obtain ⟨-, -, -, e, rest, hq, hw⟩ := (rspTransfers_iff s).1 h
  exact ⟨e, rest, hq, hw, by simp [responseSide, h, hq]⟩

theorem responseSide_of_no_transfer {s : State} (h : rspTransfers s = false) :
    responseSide s = { s with q := ageQueue s.q } := by
  simp [responseSide, h]

@[simp] theorem advancePins_nil {s : State} (h : s.upcoming = []) (transferred : Bool) :
    advancePins s transferred = (defaultDrive s.pins transferred, []) := by
  simp [advancePins, h]

@[simp] theorem advancePins_cons {s : State} {p : Pins} {rest : List Pins} (h : s.upcoming = p :: rest)
    (transferred : Bool) : advancePins s transferred = (p, rest) := by
  simp [advancePins, h]

/-! ## Executing a command -/

theorem respond_eq (s : State) (r : Nat) :
    respond s r = .next (enqueue s { res := zext64 r, err := false }) := rfl

/-- Every command answers a next state: its response enters `Q`, and nothing else changes. -/
theorem exec_eq (i : Instr) (s : State) :
    exec i s = .next (enqueue s { res := zext64 (commandResult i s.pins.a s.pins.b), err := false }) := by
  cases i <;> rfl

/-- An accepted request puts EXEC of the request at the end of `Q`; an illegal one puts a fault on record too. -/
theorem acceptRequest_eq (s : State) :
    acceptRequest s = .next { enqueue s (execResponse s.pins.request) with
      trace := match decode s.pins.cmd with
        | .ok _ => s.trace
        | .error _ => .programFault .illegalCommand :: s.trace } := by
  unfold acceptRequest
  cases h : decode s.pins.cmd with
  | ok i => simp [exec_eq, execResponse, Pins.request, h, enqueue]
  | error k => simp [raiseIllegalCommand, execResponse, illegalResponse, Pins.request, h, enqueue]

/-! ## A step -/

theorem brokenDuty_none_iff (s : State) : brokenDuty s = none ↔
    (∀ r, s.held = some r → s.pins.reqValid = true ∧ s.pins.request = r) ∧
      ¬ (s.pins.reqValid = true ∧ s.pins.undriven = true) := by
  unfold brokenDuty
  cases hh : s.held with
  | none => by_cases hu : s.pins.reqValid = true ∧ s.pins.undriven = true <;> simp [hu]
  | some r =>
    by_cases hr : s.pins.reqValid = true ∧ r = s.pins.request
    · by_cases hu : s.pins.undriven = true <;> simp [hr.1, hr.2, hu]
    · have hr' : ¬ (s.pins.reqValid = true ∧ s.pins.request = r) := fun h => hr ⟨h.1, h.2.symm⟩
      simp [hr, hr']

theorem step_reset {s : State} (h : s.pins.rst = true) : step s = .next (resetEdge s) := by
  simp [step, clockEdge, h]

theorem step_unreset {s : State} (hr : s.pins.rst = false) (hp : s.phase = .unreset) :
    step s = .next (unresetEdge s) := by
  simp [step, clockEdge, hr, hp]

theorem step_broken {s : State} {d : Fault} (hr : s.pins.rst = false) (hp : s.phase = .running)
    (hd : brokenDuty s = some d) : step s = .fault d := by
  simp [step, clockEdge, hr, hp, hd]

theorem step_run {s : State} (hr : s.pins.rst = false) (hp : s.phase = .running) (hd : brokenDuty s = none) :
    step s = runEdge s := by
  simp [step, clockEdge, hr, hp, hd]

theorem runEdge_idle {s : State} (h : reqTransfers s = false) :
    runEdge s = .next (endEdge s (responseSide s)) := by
  simp [runEdge, h]

/-- The state in which an edge leaves `Q` and the trace when a request transfers, before the edge's bookkeeping. -/
theorem runEdge_accept {s : State} (h : reqTransfers s = true) :
    runEdge s = .next (endEdge s { enqueue (capture (responseSide s)) (execResponse s.pins.request) with
      trace := match decode s.pins.cmd with
        | .ok _ => (capture (responseSide s)).trace
        | .error _ => .programFault .illegalCommand :: (capture (responseSide s)).trace }) := by
  simp [runEdge, h, acceptRequest_eq]

/-- Everything a step can do. -/
theorem step_cases (s : State) :
    (s.pins.rst = true ∧ step s = .next (resetEdge s)) ∨
    (s.pins.rst = false ∧ s.phase = .unreset ∧ step s = .next (unresetEdge s)) ∨
    (s.pins.rst = false ∧ s.phase = .running ∧ ∃ d, brokenDuty s = some d ∧ step s = .fault d) ∨
    (s.pins.rst = false ∧ s.phase = .running ∧ brokenDuty s = none ∧ reqTransfers s = false ∧
      step s = .next (endEdge s (responseSide s))) ∨
    (s.pins.rst = false ∧ s.phase = .running ∧ brokenDuty s = none ∧ reqTransfers s = true ∧
      step s = .next (endEdge s { enqueue (capture (responseSide s)) (execResponse s.pins.request) with
        trace := match decode s.pins.cmd with
          | .ok _ => (capture (responseSide s)).trace
          | .error _ => .programFault .illegalCommand :: (capture (responseSide s)).trace })) := by
  cases hr : s.pins.rst with
  | true => exact .inl ⟨rfl, step_reset hr⟩
  | false =>
    cases hp : s.phase with
    | unreset => exact .inr (.inl ⟨rfl, rfl, step_unreset hr hp⟩)
    | running =>
      cases hd : brokenDuty s with
      | some d => exact .inr (.inr (.inl ⟨rfl, rfl, d, rfl, step_broken hr hp hd⟩))
      | none =>
        cases ht : reqTransfers s with
        | false => exact .inr (.inr (.inr (.inl ⟨rfl, rfl, rfl, rfl, (step_run hr hp hd).trans (runEdge_idle ht)⟩)))
        | true => exact .inr (.inr (.inr (.inr ⟨rfl, rfl, rfl, rfl, (step_run hr hp hd).trans (runEdge_accept ht)⟩)))

end Sys2Proof.Machine
end

