-- ==== Sys2Proof/Laws/History.lean ====
section
/-! SUPPORT. The history since the last reset, event by event; what each part of an edge does to `Q` as a list of
responses; and that no command's frame reaches further. -/

namespace Sys2Proof.Machine

/-! ## The trace -/

@[simp] theorem sinceReset_reset (t : List Event) : sinceReset (.reset :: t) = [] := by
  simp [sinceReset]

@[simp] theorem sinceReset_accepted (r : Request) (t : List Event) :
    sinceReset (.accepted r :: t) = .accepted r :: sinceReset t := by
  simp [sinceReset]

@[simp] theorem sinceReset_delivered (r : Response) (t : List Event) :
    sinceReset (.delivered r :: t) = .delivered r :: sinceReset t := by
  simp [sinceReset]

@[simp] theorem sinceReset_programFault (f : ProgramFault) (t : List Event) :
    sinceReset (.programFault f :: t) = .programFault f :: sinceReset t := by
  simp [sinceReset]

@[simp] theorem acceptedIn_nil : acceptedIn [] = [] := rfl

@[simp] theorem acceptedIn_reset (t : List Event) : acceptedIn (.reset :: t) = acceptedIn t := rfl

@[simp] theorem acceptedIn_accepted (r : Request) (t : List Event) :
    acceptedIn (.accepted r :: t) = acceptedIn t ++ [r] := by
  simp [acceptedIn, Event.acceptedRequest]

@[simp] theorem acceptedIn_delivered (r : Response) (t : List Event) :
    acceptedIn (.delivered r :: t) = acceptedIn t := rfl

@[simp] theorem acceptedIn_programFault (f : ProgramFault) (t : List Event) :
    acceptedIn (.programFault f :: t) = acceptedIn t := rfl

@[simp] theorem deliveredIn_nil : deliveredIn [] = [] := rfl

@[simp] theorem deliveredIn_reset (t : List Event) : deliveredIn (.reset :: t) = deliveredIn t := rfl

@[simp] theorem deliveredIn_accepted (r : Request) (t : List Event) :
    deliveredIn (.accepted r :: t) = deliveredIn t := rfl

@[simp] theorem deliveredIn_delivered (r : Response) (t : List Event) :
    deliveredIn (.delivered r :: t) = deliveredIn t ++ [r] := by
  simp [deliveredIn, Event.deliveredResponse]

@[simp] theorem deliveredIn_programFault (f : ProgramFault) (t : List Event) :
    deliveredIn (.programFault f :: t) = deliveredIn t := rfl

@[simp] theorem programFaultsIn_nil : programFaultsIn [] = 0 := rfl

@[simp] theorem programFaultsIn_accepted (r : Request) (t : List Event) :
    programFaultsIn (.accepted r :: t) = programFaultsIn t := by
  simp [programFaultsIn]

@[simp] theorem programFaultsIn_delivered (r : Response) (t : List Event) :
    programFaultsIn (.delivered r :: t) = programFaultsIn t := by
  simp [programFaultsIn]

@[simp] theorem programFaultsIn_programFault (t : List Event) :
    programFaultsIn (.programFault .illegalCommand :: t) = programFaultsIn t + 1 := by
  simp [programFaultsIn]

/-! ## What a record update of a state shows of `Q` and the outputs -/

@[simp] theorem responses_enqueue (s : State) (r : Response) : responses (enqueue s r) = responses s ++ [r] := by
  simp [responses]

@[simp] theorem responses_capture (s : State) : responses (capture s) = responses s := rfl

@[simp] theorem responses_endEdge (s t : State) : responses (endEdge s t) = responses t := rfl

@[simp] theorem responses_resetEdge (s : State) : responses (resetEdge s) = [] := rfl

theorem responses_responseSide (s : State) :
    responses (responseSide s) = if rspTransfers s then (responses s).tail else responses s := by
  cases h : rspTransfers s with
  | true =>
    obtain ⟨e, rest, hq, -, hs⟩ := responseSide_of_transfer h
    simp [hs, responses, hq]
  | false => simp [responseSide_of_no_transfer h, responses]

/-- A word that decodes is well formed. -/
theorem wellFormed_of_decode {cmd : Cmd} {i : Instr} (h : decode cmd = .ok i) :
    (cmdFields cmd).wellFormed = true := by
  unfold decode at h
  unfold CmdFields.wellFormed
  revert h
  dsimp only
  cases (cmdFields cmd).illegalClass with
  | none => intro; rfl
  | some k => intro h; cases h

/-! ## A command's answer -/

/-- The next state of a command, with its result named. -/
theorem answers_of_result {i : Instr} {s : State} {r : Nat} (h : commandResult i s.pins.a s.pins.b = r) :
    Answers i s r := by
  subst h
  exact exec_eq i s

end Sys2Proof.Machine
end

