-- ==== Sys2Proof/Laws/PerInstr.lean ====
section
/-! SUPPORT. What is said of every command as syntax, constructor by constructor. -/

namespace Sys2Proof.Laws.EncodedWordIsLegal

/-- A command is well formed, its word has RSV = 00, and the word's fields are those of the opcode map (R44, R47, R48). -/
def Statement (i : Instr) : Prop :=
  i.wellFormed = true ∧ (cmdFields (encode i)).rsv = 0 ∧ cmdFields (encode i) = i.fields

theorem add8 : Statement .add8 := by unfold Statement; decide

theorem add16 : Statement .add16 := by unfold Statement; decide

theorem sub8 : Statement .sub8 := by unfold Statement; decide

theorem sub16 : Statement .sub16 := by unfold Statement; decide

theorem mulw : Statement .mulw := by unfold Statement; decide

theorem f2x8f32 : Statement .f2x8f32 := by unfold Statement; decide

theorem f2x16f32 : Statement .f2x16f32 := by unfold Statement; decide

theorem f2x8f64 : Statement .f2x8f64 := by unfold Statement; decide

theorem f2x16f64 : Statement .f2x16f64 := by unfold Statement; decide

theorem x2f8f32 : Statement .x2f8f32 := by unfold Statement; decide

theorem x2f16f32 : Statement .x2f16f32 := by unfold Statement; decide

theorem x2f8f64 : Statement .x2f8f64 := by unfold Statement; decide

theorem x2f16f64 : Statement .x2f16f64 := by unfold Statement; decide

theorem widen : Statement .widen := by unfold Statement; decide

theorem narrow : Statement .narrow := by unfold Statement; decide

theorem inv8 : Statement .inv8 := by unfold Statement; decide

theorem inv16 : Statement .inv16 := by unfold Statement; decide

theorem min8 : Statement .min8 := by unfold Statement; decide

theorem min16 : Statement .min16 := by unfold Statement; decide

theorem max8 : Statement .max8 := by unfold Statement; decide

theorem max16 : Statement .max16 := by unfold Statement; decide

theorem cmp8 : Statement .cmp8 := by unfold Statement; decide

theorem cmp16 : Statement .cmp16 := by unfold Statement; decide

end Sys2Proof.Laws.EncodedWordIsLegal
end

