-- ==== Sys2Proof/Laws/Run.lean ====
section
/-! SUPPORT. A run of edges, unrolled one edge at a time. -/

namespace Sys2Proof.Machine

@[simp] theorem runEdges_zero (s : State) : runEdges 0 s = .next s := rfl

theorem runEdges_of_next {s t : State} (n : Nat) (h : step s = .next t) : runEdges (n + 1) s = runEdges n t := by
  have h' : Sys2Proof.core.step s = .next t := h
  simp only [runEdges, Host.Core.run, h']
  rfl

theorem runEdges_of_fault {s : State} {r : Fault} (n : Nat) (h : step s = .fault r) :
    runEdges (n + 1) s = .fault r := by
  have h' : Sys2Proof.core.step s = .fault r := h
  simp only [runEdges, Host.Core.run, h']
  rfl

theorem runEdges_of_refused {s : State} {r : Refusal} (n : Nat) (h : step s = .refused r) :
    runEdges (n + 1) s = .refused r := by
  have h' : Sys2Proof.core.step s = .refused r := h
  simp only [runEdges, Host.Core.run, h']
  rfl

/-! ## Parts of an edge, for statements about runs -/

theorem responseSide_length_le (s : State) : (responseSide s).q.length ≤ s.q.length := by
  cases h : rspTransfers s with
  | true =>
    obtain ⟨e, rest, hq, -, hs⟩ := responseSide_of_transfer h
    simp [hs, hq]
  | false => simp [responseSide_of_no_transfer h]

theorem acceptedIn_responseSide (s : State) : acceptedIn (responseSide s).trace = acceptedIn s.trace := by
  cases h : rspTransfers s with
  | true =>
    obtain ⟨e, rest, -, -, hs⟩ := responseSide_of_transfer h
    simp [hs]
  | false => simp [responseSide_of_no_transfer h]

/-- An edge without reset of a running FXU whose host keeps its duties: what it does to each part of the state. -/
theorem step_running {s : State} (hp : s.phase = .running) (hr : s.pins.rst = false) (hd : brokenDuty s = none) :
    ∃ t, step s = .next t ∧ t.phase = .running ∧
      t.readyIn = (if s.readyIn = 0 then Config.reqStall s.tick t.pins.reqValid else s.readyIn - 1) ∧
      t.held = (if s.pins.reqValid && !reqTransfers s then some s.pins.request else none) ∧
      t.pins = (advancePins s (reqTransfers s)).1 ∧ t.upcoming = (advancePins s (reqTransfers s)).2 ∧
      t.tick = s.tick + 1 ∧
      t.q = (responseSide s).q ++ (if reqTransfers s then
        [{ rsp := execResponse s.pins.request, wait := extraLatency s }] else []) ∧
      deliveredIn t.trace = deliveredIn (responseSide s).trace ∧
      acceptedIn t.trace = acceptedIn s.trace ++ (if reqTransfers s then [s.pins.request] else []) := by
  have hacc := acceptedIn_responseSide s
  cases ht : reqTransfers s with
  | false =>
    refine ⟨_, (step_run hr hp hd).trans (runEdge_idle ht), by simpa using hp, ?_⟩
    simp [ht, hacc]
  | true =>
    refine ⟨_, (step_run hr hp hd).trans (runEdge_accept ht), by simpa using hp, ?_⟩
    cases decode s.pins.cmd <;> simp [ht, hacc]

/-- The head of `Q` transfers exactly when its latency has passed and the host takes it. -/
theorem rspTransfers_head {s : State} (hp : s.phase = .running) (hr : s.pins.rst = false) {e : InFlight}
    {rest : List InFlight} (hq : s.q = e :: rest) :
    rspTransfers s = true ↔ e.wait = 0 ∧ s.pins.rspReady = true := by
  simp [rspTransfers_iff, hp, hr, hq, and_comm]

/-! ## A host that keeps its duties and applies no reset -/

/-- An edge with such a host steps to a state with such a host. A request offered and not accepted is held. -/
theorem step_of_dutifulHost {s : State} (hD : DutifulHost s) : ∃ t, step s = .next t ∧ DutifulHost t ∧
    t.readyIn = (if s.readyIn = 0 then Config.reqStall s.tick t.pins.reqValid else s.readyIn - 1) ∧
    t.q = (responseSide s).q ++ (if reqTransfers s then
      [{ rsp := execResponse s.pins.request, wait := extraLatency s }] else []) ∧
    deliveredIn t.trace = deliveredIn (responseSide s).trace ∧
    acceptedIn t.trace = acceptedIn s.trace ++ (if reqTransfers s then [s.pins.request] else []) ∧
    (s.pins.reqValid = true → reqTransfers s = false →
      t.pins.reqValid = true ∧ t.pins.request = s.pins.request) := by
  obtain ⟨hp, hr, hu, hd⟩ := hD
  obtain ⟨t, hst, hpt, hri, hheld, hpins, hup, -, hq, hdel, hacc⟩ := step_running hp hr (hd 0 s rfl)
  have hdt : ∀ n u, runEdges n t = .next u → brokenDuty u = none := fun n u h =>
    hd (n + 1) u ((runEdges_of_next n hst).trans h)
  refine ⟨t, hst, ⟨hpt, ?_, ?_, hdt⟩, hri, hq, hdel, hacc, fun hv hnt => ?_⟩
  · rw [hpins]
    cases h : s.upcoming with
    | nil => simp [h, defaultDrive]
    | cons p rest =>
      rw [advancePins_cons h]
      exact hu p (by simp [h])
  · rw [hup]
    cases h : s.upcoming with
    | nil => simp [h]
    | cons p rest =>
      rw [advancePins_cons h]
      exact fun x hx => hu x (by simp [h, hx])
  · exact ((brokenDuty_none_iff t).1 (hdt 0 t rfl)).1 _ (by simp [hheld, hv, hnt])

/-- The run of such a host never stops, and such a host is what it leads to. -/
theorem runEdges_of_dutifulHost {s : State} (hD : DutifulHost s) (n : Nat) :
    ∃ t, runEdges n s = .next t ∧ DutifulHost t := by
  induction n generalizing s with
  | zero => exact ⟨s, rfl, hD⟩
  | succ n ih =>
    obtain ⟨t, hst, hDt, -⟩ := step_of_dutifulHost hD
    obtain ⟨u, hu, hDu⟩ := ih hDt
    exact ⟨u, (runEdges_of_next n hst).trans hu, hDu⟩

/-- A host keeps its duties if it does at the coming edge and after it. -/
theorem dutifulHost_of_step {s t : State} (hp : s.phase = .running) (hr : s.pins.rst = false)
    (hu : ∀ p ∈ s.upcoming, p.rst = false) (hd : brokenDuty s = none) (hst : step s = .next t)
    (ht : DutifulHost t) : DutifulHost s := by
  refine ⟨hp, hr, hu, fun n u h => ?_⟩
  cases n with
  | zero => cases h; exact hd
  | succ n => exact ht.2.2.2 n u ((runEdges_of_next n hst).symm.trans h)

/-- An edge with a quiet host steps to a state with a quiet host. -/
theorem step_of_quietHost {s : State} (hQ : QuietHost s) : ∃ t, step s = .next t ∧ QuietHost t := by
  obtain ⟨hp, hr, hd, hu⟩ := hQ
  obtain ⟨t, hst, hpt, -, hheld, hpins, hup, -⟩ := step_running hp hr hd
  rw [advancePins_nil hu] at hpins hup
  refine ⟨t, hst, hpt, by simp [hpins, defaultDrive], (brokenDuty_none_iff t).2 ⟨?_, ?_⟩, hup⟩
  · intro r h
    rw [hheld] at h
    split at h
    · cases h
      simp_all [defaultDrive, Pins.request]
    · cases h
  · have := ((brokenDuty_none_iff s).1 hd).2
    simp_all [defaultDrive]

/-- A quiet host keeps its duties and applies no reset. -/
theorem dutifulHost_of_quietHost {s : State} (hQ : QuietHost s) : DutifulHost s := by
  refine ⟨hQ.1, hQ.2.1, by simp [hQ.2.2.2], fun n => ?_⟩
  induction n generalizing s with
  | zero => intro t h; cases h; exact hQ.2.2.1
  | succ n ih =>
    intro t h
    obtain ⟨u, hst, hQu⟩ := step_of_quietHost hQ
    exact ih hQu t ((runEdges_of_next n hst).symm.trans h)

/-- Two sequences of transactions, one after the other. -/
theorem transactAll_append {d : Nat} {ks ks' : List Transaction} {q q' q'' out out' : List Response}
    (h : transactAll d ks q = some (out, q')) (h' : transactAll d ks' q' = some (out', q'')) :
    transactAll d (ks ++ ks') q = some (out ++ out', q'') := by
  induction ks generalizing q out with
  | nil =>
    simp only [transactAll, Option.some.injEq, Prod.mk.injEq] at h
    obtain ⟨rfl, rfl⟩ := h
    simpa using h'
  | cons k ks ih =>
    simp only [transactAll, List.cons_append] at h ⊢
    split at h
    · cases h
    · split at h
      · cases h
      · rename_i out₁ q₁ hks
        simp only [Option.some.injEq, Prod.mk.injEq] at h
        obtain ⟨rfl, rfl⟩ := h
        simp [ih hks]

/-- The transactions of a run, its first edge's and then the others'. -/
theorem runTransactions_of_next {s t : State} (n : Nat) (h : step s = .next t) :
    runTransactions (n + 1) s = edgeTransactions s ++ runTransactions n t := by
  simp [runTransactions, h]

end Sys2Proof.Machine
end

