-- ==== Sys2Proof/Tests/Slice0.lean ====
section
/-! SUPPORT. Tests. Expected results are the spec's: the vectors of 95_test_vectors.md, by section, and the examples of
the rules. The witnesses at the end meet the hypotheses of the statements, each clause at a boundary of its range. -/

namespace Sys2Proof.Tests

open Sys2Proof Sys2Proof.Machine

/-! ## The well-formedness check refuses each kind of illegal word (R52) -/

theorem test_check_reserved_op_zero :
    ({ op := 0x0, rsv := 0, f := false, w := false } : CmdFields).illegalClass = some .reservedOpZero := by decide

theorem test_check_reserved_op_high :
    ({ op := 0xF, rsv := 3, f := false, w := false } : CmdFields).illegalClass = some .reservedOpHigh := by decide

theorem test_check_reserved_bits :
    ({ op := 0x1, rsv := 1, f := false, w := false } : CmdFields).illegalClass = some .reservedBits := by decide

theorem test_check_wrong_format :
    ({ op := 0x1, rsv := 0, f := true, w := false } : CmdFields).illegalClass = some .wrongForm := by decide

theorem test_check_wrong_width :
    ({ op := 0x3, rsv := 0, f := false, w := true } : CmdFields).illegalClass = some .wrongForm := by decide

/-! ## Every command's word, written out as {OP, RSV, F, W} (R48) -/

theorem test_decode_add8 : decode 0b0001_00_0_0 = .ok .add8 := by decide
theorem test_decode_add16 : decode 0b0001_00_0_1 = .ok .add16 := by decide
theorem test_decode_sub8 : decode 0b0010_00_0_0 = .ok .sub8 := by decide
theorem test_decode_sub16 : decode 0b0010_00_0_1 = .ok .sub16 := by decide
theorem test_decode_mulw : decode 0b0011_00_0_0 = .ok .mulw := by decide
theorem test_decode_f2x8f32 : decode 0b0100_00_0_0 = .ok .f2x8f32 := by decide
theorem test_decode_f2x16f32 : decode 0b0100_00_0_1 = .ok .f2x16f32 := by decide
theorem test_decode_f2x8f64 : decode 0b0100_00_1_0 = .ok .f2x8f64 := by decide
theorem test_decode_f2x16f64 : decode 0b0100_00_1_1 = .ok .f2x16f64 := by decide
theorem test_decode_x2f8f32 : decode 0b0101_00_0_0 = .ok .x2f8f32 := by decide
theorem test_decode_x2f16f32 : decode 0b0101_00_0_1 = .ok .x2f16f32 := by decide
theorem test_decode_x2f8f64 : decode 0b0101_00_1_0 = .ok .x2f8f64 := by decide
theorem test_decode_x2f16f64 : decode 0b0101_00_1_1 = .ok .x2f16f64 := by decide
theorem test_decode_widen : decode 0b0110_00_0_0 = .ok .widen := by decide
theorem test_decode_narrow : decode 0b0111_00_0_0 = .ok .narrow := by decide
theorem test_decode_inv8 : decode 0b1000_00_0_0 = .ok .inv8 := by decide
theorem test_decode_inv16 : decode 0b1000_00_0_1 = .ok .inv16 := by decide
theorem test_decode_min8 : decode 0b1001_00_0_0 = .ok .min8 := by decide
theorem test_decode_min16 : decode 0b1001_00_0_1 = .ok .min16 := by decide
theorem test_decode_max8 : decode 0b1010_00_0_0 = .ok .max8 := by decide
theorem test_decode_max16 : decode 0b1010_00_0_1 = .ok .max16 := by decide
theorem test_decode_cmp8 : decode 0b1011_00_0_0 = .ok .cmp8 := by decide
theorem test_decode_cmp16 : decode 0b1011_00_0_1 = .ok .cmp16 := by decide

/-- The illegal words of 95_test_vectors.md section 2.9. -/
theorem test_decode_illegal_words :
    (([0x00, 0x0F, 0xC0, 0xFF, 0x14, 0x4C, 0x12, 0x31, 0x32, 0x61, 0x71, 0xB2] : List Cmd).map fun c =>
      (decode c).isOk) = List.replicate 12 false := by decide

theorem test_table_word : decodeTableWord 8 0x43 = some .f2x16f64 := by decide

/-! ## One step of each command (95_test_vectors.md sections 2.1 to 2.8) -/

/-- A running, ready FXU with `Q` empty on which the host offers the request (cmd, a, b). -/
def offered (cmd a b : Nat) : State :=
  State.withFetchWord
    { State.reset with pins := { Pins.low with a := BitVec.ofNat 64 a, b := BitVec.ofNat 64 b } } 8 cmd

/-- RES and ERR of the one response in `Q` after one step. -/
def answer (cmd a b : Nat) : Option (Nat × Bool) :=
  match step (offered cmd a b) with
  | .next t =>
    match t.q with
    | [e] => some (e.rsp.res.toNat, e.rsp.err)
    | _ => none
  | _ => none

theorem test_add8_saturates : answer 0x10 0xC8 0x64 = some (0xFF, false) := by decide
theorem test_add8_ignores_upper_bits : answer 0x10 0x164 0x64 = some (0xC8, false) := by decide
theorem test_add16_carries : answer 0x11 0x00FF 0x0001 = some (0x0100, false) := by decide
theorem test_add16_saturates : answer 0x11 0xC000 0x4000 = some (0xFFFF, false) := by decide
theorem test_sub8_underflow : answer 0x20 0x05 0x07 = some (0x00, false) := by decide
theorem test_sub8_order : answer 0x20 0xC8 0x37 = some (0x91, false) := by decide
theorem test_sub16_borrows : answer 0x21 0x8000 0x0001 = some (0x7FFF, false) := by decide
theorem test_sub16_ignores_upper_bits : answer 0x21 0x10000 0x0001 = some (0x0000, false) := by decide
theorem test_mulw_in_E : answer 0x30 17 45 = some (770, false) := by decide
theorem test_mulw_product : answer 0x30 0xC8 0x64 = some (20156, false) := by decide
theorem test_f2x8f32_carry_up : answer 0x40 0x3B808081 0 = some (1, false) := by decide
theorem test_f2x8f32_nan : answer 0x40 0xFFC00000 0 = some (0, false) := by decide
theorem test_f2x16f32_tenth : answer 0x41 0x3DCCCCCD 0 = some (6553, false) := by decide
theorem test_f2x16f32_overflow : answer 0x41 0x7F7FFFFF 0 = some (0xFFFF, false) := by decide
theorem test_f2x8f64_half : answer 0x42 0x3FE0000000000000 0x1234 = some (0x7F, false) := by decide
theorem test_f2x8f64_below_one : answer 0x42 0x3FEFFFFFFFFFFFFF 0 = some (254, false) := by decide
theorem test_f2x16f64_negative : answer 0x43 0xBFF0000000000000 0 = some (0, false) := by decide
theorem test_f2x16f64_infinity : answer 0x43 0x7FF0000000000000 0 = some (0xFFFF, false) := by decide
theorem test_x2f8f32_not_quotient : answer 0x50 3 0 = some (0x3C40C0C2, false) := by decide
theorem test_x2f8f32_ignores_upper_bits : answer 0x50 0x1C8 0 = some (0x3F48C8CA, false) := by decide
theorem test_x2f16f32 : answer 0x51 16255 0 = some (0x3E7DFCFE, false) := by decide
theorem test_x2f16f32_one : answer 0x51 65535 0 = some (0x3F800000, false) := by decide
theorem test_x2f8f64 : answer 0x52 33 0 = some (0x3FC0909090909090, false) := by decide
theorem test_x2f8f64_zero : answer 0x52 0 0 = some (0, false) := by decide
theorem test_x2f16f64 : answer 0x53 255 0 = some (0x3F6FE01FE01FE020, false) := by decide
theorem test_x2f16f64_one_raw : answer 0x53 1 0 = some (0x3EF0001000100010, false) := by decide
theorem test_widen : answer 0x60 0xAB 0 = some (0xABAB, false) := by decide
theorem test_widen_ignores_upper_bits : answer 0x60 0x1FF 0 = some (0xFFFF, false) := by decide
theorem test_narrow_truncates : answer 0x70 0xFFFE 0 = some (0xFE, false) := by decide
theorem test_narrow : answer 0x70 0x807F 0 = some (0x7F, false) := by decide
theorem test_inv8_complement_of_8_bits : answer 0x80 0x1FF 0 = some (0x00, false) := by decide
theorem test_inv8 : answer 0x80 0xC8 0 = some (0x37, false) := by decide
theorem test_inv16 : answer 0x81 0x1234 0 = some (0xEDCB, false) := by decide
theorem test_min8 : answer 0x90 0xC8 0x37 = some (0x37, false) := by decide
theorem test_min16 : answer 0x91 0x0001 0xFFFF = some (0x0001, false) := by decide
theorem test_max8 : answer 0xA0 0xC8 0x37 = some (0xC8, false) := by decide
theorem test_max16_unsigned : answer 0xA1 0x8000 0x7FFF = some (0x8000, false) := by decide
theorem test_cmp8_less : answer 0xB0 0x37 0xC8 = some (1, false) := by decide
theorem test_cmp8_equal : answer 0xB0 0x1FF 0xFF = some (2, false) := by decide
theorem test_cmp16_greater : answer 0xB1 0x8000 0x7FFF = some (4, false) := by decide

/-- ADD with F = 1 (section 2.9): answered, and the machine goes on. -/
theorem test_illegal_answered : answer 0x12 0x3F 0xC0 = some (0, true) := by decide

/-! ## Float constants and intermediates (R17, section 2.8) -/

theorem test_reciprocal_f32_8 : datumBits .f32 (reciprocal .f32 .w8) = 0x3B808081 := by decide
theorem test_reciprocal_f64_16 : datumBits .f64 (reciprocal .f64 .w16) = 0x3EF0001000100010 := by decide

/-- Section 2.1: 0x007FFFFF, the largest subnormal of F32, times 255.0. -/
theorem test_fmul_subnormal :
    datumBits .f32 (fmul .f32 (asDatum .f32 0x007FFFFF) (maxFloat .f32 .w8)) = 0x047EFFFE := by decide

/-- Section 2.1: the smallest subnormal of F32 times 255.0 is itself subnormal. -/
theorem test_fmul_subnormal_result :
    datumBits .f32 (fmul .f32 (asDatum .f32 0x00000001) (maxFloat .f32 .w8)) = 0x000000FF := by decide

/-- Section 2.1: -1.0 times 255.0. -/
theorem test_fmul_sign :
    datumBits .f32 (fmul .f32 (asDatum .f32 0xBF800000) (maxFloat .f32 .w8)) = 0xC37F0000 := by decide

/-! ## Programs (section 3) -/

/-- P5, the transaction-level run, for DEPTH = 2. -/
theorem test_program_p5 :
    transactAll 2
      [.accept ⟨0x11, 0xFFFF, 0x0001⟩, .accept ⟨0x20, 0x05, 0x07⟩, .deliver, .reset,
       .accept ⟨0xB0, 0x37, 0xC8⟩, .accept ⟨0x00, 0x0, 0x0⟩, .deliver, .deliver] [] =
      some ([⟨0xFFFF, false⟩, ⟨0x1, false⟩, ⟨0x0, true⟩], []) := by decide

/-- P2, the alpha blend: the results of t1 to t6. -/
theorem test_program_p2 :
    (runScript []
      [⟨0x30, .literal 0xC8, .literal 0x40⟩, ⟨0x80, .literal 0x40, .literal 0⟩, ⟨0x30, .literal 0x64, .result 2⟩,
       ⟨0x11, .result 1, .result 3⟩, ⟨0x70, .result 4, .literal 0⟩, ⟨0x50, .result 5, .literal 0⟩]).map
        (fun out => out.map Response.res) =
      some [0x3264, 0xBF, 0x4B31, 0x7D95, 0x7D, 0x3EFAFAFC] := by decide

/-! ## The edge-level machine -/

/-- A queue entry whose response is ready. -/
def entry (r : Nat) (wait : Nat) : InFlight := { rsp := { res := BitVec.ofNat 64 r, err := false }, wait := wait }

/-- A running FXU with the given queue, the host taking responses or not, offering nothing. -/
def serving (q : List InFlight) (take : Bool) : State :=
  { State.reset with q := q, pins := { Pins.low with rspReady := take } }

/-- What a step ends in: the responses in flight, or why it stopped. -/
def outcome (s : State) : Except Fault (List Response) :=
  match step s with
  | .next t => .ok (responses t)
  | .fault f => .error f
  | .refused _ => .ok []

theorem test_delivers_oldest :
    outcome (serving [entry 7 0, entry 8 0] true) = .ok [{ res := 8, err := false }] := by decide

theorem test_waits_latency :
    outcome (serving [entry 7 1] true) = .ok [{ res := 7, err := false }] := by decide

theorem test_reset_drops_queue :
    outcome { serving [entry 7 0] true with pins := { Pins.low with rst := true, rspReady := true } } = .ok [] := by
  decide

theorem test_withdrawn_request_faults :
    outcome { serving [] true with held := some { cmd := 0x10, a := 1, b := 2 } } = .error .requestNotHeld := by
  decide

theorem test_undriven_request_faults :
    outcome { State.reset with pins := { Pins.low with reqValid := true, undriven := true } } =
      .error .requestUndriven := by decide

/-! ## Witnesses: states and operands that meet the hypotheses of the statements -/

theorem witness_EncodeThenDecode : Instr.wellFormed .cmp16 = true := by decide

theorem witness_DecodeThenEncode : decode 0xB1 = .ok .cmp16 := by decide

/-- One illegal word of each class, at the boundary of its pattern. -/
theorem witness_IllegalWordClasses :
    decode (offered 0x0F 0 0).pins.cmd = .error .reservedOpZero ∧
    decode (offered 0xC0 0 0).pins.cmd = .error .reservedOpHigh ∧
    decode (offered 0xBF 0 0).pins.cmd = .error .reservedBits ∧
    decode (offered 0x61 0 0).pins.cmd = .error .wrongForm := by decide

theorem witness_UnreadOperandBitsIgnored :
    (0x1FF : Bus).toNat % 2 ^ Instr.bitsOfA .add8 = (offered 0x10 0xFF 1).pins.a.toNat % 2 ^ Instr.bitsOfA .add8 ∧
    (0x301 : Bus).toNat % 2 ^ Instr.bitsOfB .add8 = (offered 0x10 0xFF 1).pins.b.toNat % 2 ^ Instr.bitsOfB .add8 := by
  decide

theorem offered_transfers (cmd a b : Nat) :
    brokenDuty (offered cmd a b) = none ∧ reqTransfers (offered cmd a b) = true := by
  refine ⟨?_, (reqTransfers_iff _).2 ?_⟩
  · simp [brokenDuty_none_iff, offered, State.withFetchWord]
  · simp [offered, State.withFetchWord, Config.depth, State.reset]

theorem witness_StepRunsDecodedCommand :
    brokenDuty (offered 0x30 17 45) = none ∧ reqTransfers (offered 0x30 17 45) = true ∧
      decode (offered 0x30 17 45).pins.cmd = .ok .mulw :=
  ⟨(offered_transfers _ _ _).1, (offered_transfers _ _ _).2, by decide⟩

theorem witness_StepAnswersIllegalCommand :
    brokenDuty (offered 0xFF 1 2) = none ∧ reqTransfers (offered 0xFF 1 2) = true ∧
      decode (offered 0xFF 1 2).pins.cmd = .error .reservedOpHigh :=
  ⟨(offered_transfers _ _ _).1, (offered_transfers _ _ _).2, by decide⟩

theorem witness_StepWithoutRequestTransfer :
    (serving [entry 7 0] true).phase = .running ∧ (serving [entry 7 0] true).pins.rst = false ∧
      brokenDuty (serving [entry 7 0] true) = none ∧ reqTransfers (serving [entry 7 0] true) = false := by decide

theorem witness_ResponseTransferEmitsOldest :
    brokenDuty (serving [entry 7 0, entry 8 3] true) = none ∧
      rspTransfers (serving [entry 7 0, entry 8 3] true) = true := by decide

/-- Both ways a duty is broken, and a state in which none is; a request that is to be held, and an edge after which none
is. -/
theorem witness_StopsExactlyOnBrokenDuty :
    brokenDuty { serving [] true with held := some { cmd := 0x10, a := 1, b := 2 } } = some .requestNotHeld ∧
    brokenDuty { State.reset with pins := { Pins.low with reqValid := true, undriven := true } } =
      some .requestUndriven ∧
    brokenDuty State.reset = none ∧
    (∃ t, step { offered 0x10 1 2 with readyIn := 3 } = .next t ∧ t.held = some { cmd := 0x10, a := 1, b := 2 }) ∧
    ∃ t, step (serving [] true) = .next t ∧ t.held = none := by
  refine ⟨rfl, rfl, rfl, ⟨_, (step_run rfl rfl rfl).trans (runEdge_idle rfl), rfl⟩,
    ⟨_, (step_run rfl rfl rfl).trans (runEdge_idle rfl), rfl⟩⟩

/-- A reset edge with three more after it. -/
def resetting : State :=
  { serving [entry 7 0] true with
    pins := { Pins.low with rst := true }
    upcoming := List.replicate 3 { Pins.low with rst := true } }

theorem witness_ResetEdgeEmptiesQueue : resetting.pins.rst = true := by decide

theorem witness_LongResetSameAsShort :
    resetting.pins.rst = true ∧ 3 ≤ resetting.upcoming.length ∧
      ∀ p ∈ resetting.upcoming.take 3, p.rst = true := by decide

theorem witness_BeforeFirstResetNothingTransfers :
    State.powerUp.phase = .unreset ∧ State.powerUp.pins.rst = false := ⟨rfl, rfl⟩

/-- The step from `serving` leads to a state with rst = 0. -/
theorem witness_ResponseHeldUntilTaken :
    (serving [entry 7 0] false).phase = .running ∧ rspValid (serving [entry 7 0] false) = true ∧
      (serving [entry 7 0] false).pins.rspReady = false ∧
      ∃ t, step (serving [entry 7 0] false) = .next t ∧ t.pins.rst = false := by
  refine ⟨rfl, rfl, rfl, _, (step_run rfl rfl rfl).trans (runEdge_idle (by decide)), rfl⟩

/-- A full queue whose oldest response is ready. -/
def full : State := serving (List.replicate Config.depth (entry 7 0)) true

/-- Each clause: a full queue, a reset, an empty queue, a valid response. -/
theorem witness_OutputsFollowQueue :
    (full.phase = .running ∧ full.q.length = Config.depth) ∧
    (resetting.phase = .running ∧ resetting.pins.rst = true) ∧
    ((serving [] true).phase = .running ∧ (serving [] true).q = []) ∧
    ((serving [entry 7 0] true).phase = .running ∧ rspValid (serving [entry 7 0] true) = true) := by
  refine ⟨⟨rfl, by simp [full, serving]⟩, ?_⟩
  decide

/-- The invariants hold at the state after reset with a request offered, and its step gives a next state. -/
theorem witness_StepKeepsInvariants :
    (QueueWithinDepth (offered 0x12 1 2) ∧ AnsweredInOrder (offered 0x12 1 2) ∧ FaultsOnRecord (offered 0x12 1 2)) ∧
      ∃ t, step (offered 0x12 1 2) = .next t := by
  refine ⟨?_, _, (step_run rfl rfl (offered_transfers _ _ _).1).trans (runEdge_accept (offered_transfers _ _ _).2)⟩
  refine ⟨fun _ => ?_, fun _ => ?_, fun _ => ?_⟩ <;>
    simp [offered, State.withFetchWord, State.reset, responses, sinceReset, illegalRequests]

theorem witness_RunRefinesTransactions : ∃ t, runEdges 1 (offered 0x30 17 45) = .next t :=
  ⟨_, (runEdges_of_next 0 ((step_run rfl rfl (offered_transfers _ _ _).1).trans
    (runEdge_accept (offered_transfers _ _ _).2))).trans (runEdges_zero _)⟩

/-- Two machines that differ in their queues and histories accept the same request. -/
theorem witness_ResponseDependsOnRequestOnly :
    brokenDuty (offered 0x30 17 45) = none ∧
      brokenDuty { offered 0x30 17 45 with tick := 9, trace := [.reset] } = none ∧
      reqTransfers (offered 0x30 17 45) = true ∧
      reqTransfers { offered 0x30 17 45 with tick := 9, trace := [.reset] } = true ∧
      (offered 0x30 17 45).pins.request = ({ offered 0x30 17 45 with tick := 9, trace := [.reset] } : State).pins.request :=
  ⟨(offered_transfers _ _ _).1, (offered_transfers 0x30 17 45).1, (offered_transfers _ _ _).2,
    (offered_transfers 0x30 17 45).2, rfl⟩

theorem offered_quiet (cmd a b n : Nat) : QuietHost { offered cmd a b with readyIn := n } := by
  refine ⟨rfl, rfl, ?_, rfl⟩
  simp [brokenDuty_none_iff, offered, State.withFetchWord]

/-- A host that takes no response at the coming edge, and at the next one takes it and offers a request. -/
def pausing (wait : Nat) : State :=
  { serving [entry 7 wait] false with
    upcoming := [{ Pins.low with rspReady := true, reqValid := true, cmd := 0x10, a := 1, b := 2 }] }

theorem pausing_dutiful (wait : Nat) : DutifulHost (pausing wait) := by
  have ht : rspTransfers (pausing wait) = false := by simp [pausing, serving, rspTransfers]
  refine dutifulHost_of_step rfl rfl (by simp [pausing, Pins.low]) rfl
    ((step_run rfl rfl rfl).trans (runEdge_idle (by simp [pausing, serving, reqTransfers, Pins.low])))
    (dutifulHost_of_quietHost ?_)
  rw [responseSide_of_no_transfer ht]
  exact ⟨rfl, rfl, rfl, rfl⟩

/-- A request that transfers; the second response in flight, one edge short of its latency; and the oldest response, of a
host that goes on driving. -/
theorem witness_OldestResponseBecomesValid :
    (DutifulHost (offered 0x30 17 45) ∧ reqTransfers (offered 0x30 17 45) = true) ∧
    (DutifulHost (serving [entry 7 0, entry 8 5] true) ∧
      (serving [entry 7 0, entry 8 5] true).q[1]? = some (entry 8 5) ∧ 4 < (entry 8 5).wait ∧
      ∃ t, runEdges 4 (serving [entry 7 0, entry 8 5] true) = .next t) ∧
    (DutifulHost (pausing 3) ∧ (pausing 3).q = entry 7 3 :: []) := by
  have hD := dutifulHost_of_quietHost (s := serving [entry 7 0, entry 8 5] true) ⟨rfl, rfl, rfl, rfl⟩
  obtain ⟨t, ht, -⟩ := runEdges_of_dutifulHost hD 4
  exact ⟨⟨dutifulHost_of_quietHost (offered_quiet _ _ _ 0), (offered_transfers _ _ _).2⟩,
    ⟨hD, rfl, by decide, t, ht⟩, pausing_dutiful 3, rfl⟩

/-- The host pauses at the edge at which the response becomes valid, and takes it at the next. -/
theorem witness_OldestResponseIsDelivered :
    DutifulHost (pausing 0) ∧ (pausing 0).q = entry 7 0 :: [] ∧
      (∃ t, runEdges 1 (pausing 0) = .next t ∧ t.pins.rspReady = true) ∧
      ∀ (m : Nat) (u : State), (entry 7 0).wait ≤ m → m < 1 → runEdges m (pausing 0) = .next u →
        u.pins.rspReady = false := by
  refine ⟨pausing_dutiful 0, rfl, ⟨_, (runEdges_of_next 0 ((step_run rfl rfl rfl).trans (runEdge_idle rfl))).trans
    (runEdges_zero _), rfl⟩, fun m u _ hm h => ?_⟩
  obtain rfl : m = 0 := by omega
  cases h
  rfl

/-- A request offered while req_ready is held low for three more edges. -/
theorem witness_OfferedRequestIsAccepted :
    DutifulHost { offered 0x10 1 2 with readyIn := 3 } ∧
      ({ offered 0x10 1 2 with readyIn := 3 } : State).q.length < Config.depth ∧
      ({ offered 0x10 1 2 with readyIn := 3 } : State).pins.reqValid = true := by
  refine ⟨dutifulHost_of_quietHost (offered_quiet _ _ _ 3), ?_, rfl⟩
  simp [offered, State.withFetchWord, Config.depth, State.reset]

theorem witness_FetchWordRunsNext : 0xB1 < 256 ∧ decode (BitVec.ofNat 8 0xB1) = .ok .cmp16 := by decide

/-- Raws at both ends of each range; the sum saturates at one width and not at the other. -/
theorem witness_AddLaws :
    (255 ≤ FracWidth.w8.maxRaw ∧ 1 ≤ FracWidth.w8.maxRaw ∧ 0 ≤ FracWidth.w8.maxRaw) ∧
      (65535 ≤ FracWidth.w16.maxRaw ∧ 1 ≤ FracWidth.w16.maxRaw ∧ 0 ≤ FracWidth.w16.maxRaw) := by decide

theorem witness_SubLaws : (0 ≤ FracWidth.w8.maxRaw ∧ 255 ≤ FracWidth.w8.maxRaw) ∧
    (65535 ≤ FracWidth.w16.maxRaw ∧ 0 ≤ FracWidth.w16.maxRaw) := by decide

theorem witness_InvLaws : (0 ≤ FracWidth.w8.maxRaw ∧ 255 ≤ FracWidth.w8.maxRaw) ∧
    (65535 ≤ FracWidth.w16.maxRaw ∧ 0 ≤ FracWidth.w16.maxRaw) := by decide

theorem witness_OrderLaw : (254 ≤ FracWidth.w8.maxRaw ∧ 255 ≤ FracWidth.w8.maxRaw) ∧
    (65535 ≤ FracWidth.w16.maxRaw ∧ 65534 ≤ FracWidth.w16.maxRaw) := by decide

theorem witness_X2fEndpointsAndRange :
    (1 ≤ 1 ∧ 1 < FracWidth.w8.maxRaw) ∧ (1 ≤ 65535 ∧ 65535 ≤ FracWidth.w16.maxRaw) := by decide

theorem witness_X2fStrictlyIncreasing :
    0 < 1 ∧ 1 ≤ FracWidth.w8.maxRaw ∧ 65534 < 65535 ∧ 65535 ≤ FracWidth.w16.maxRaw := by decide

/-- R69: raws on the lists and off them, at the ends. -/
theorem witness_FloatRoundTrip :
    33 ∈ SpecTables.roundTripLow8F64 ∧ 255 ∉ SpecTables.roundTripLow8F64 ∧
      65152 ∈ SpecTables.roundTripLow16F32 ∧ 62464 ∈ SpecTables.roundTripLow16F64 := by decide +kernel

/-- R82: a multiple of 257 and a raw that is none, at the ends. -/
theorem witness_WidthRoundTripLaws : 257 ∣ 65535 ∧ ¬ 257 ∣ 65534 ∧ 254 < 255 := by decide

/-- R84, R85: a pair of E, and the top of the range. -/
theorem witness_MulwLaws : SpecTables.inE 33 255 = true ∧ 254 < 255 ∧ 1 ≤ 255 := by decide

/-- R62: a datum below 0 (-∞), one above 1 (+∞), and both ends of [0, 1]. -/
theorem witness_F2xClampingLaw :
    extReal .f32 (floatOperand .f32 0xFF800000) = some ⊥ ∧ (⊥ : WithBot (WithTop ℚ)) < 0 ∧
    extReal .f32 (floatOperand .f32 0x7F800000) = some ((⊤ : WithTop ℚ) : WithBot (WithTop ℚ)) ∧
    (1 : WithBot (WithTop ℚ)) < ((⊤ : WithTop ℚ) : WithBot (WithTop ℚ)) ∧
    extReal .f32 (floatOperand .f32 0x80000000) = some ((((0 : ℚ) : WithTop ℚ)) : WithBot (WithTop ℚ)) ∧
    extReal .f32 (floatOperand .f32 0x3F800000) = some ((((1 : ℚ) : WithTop ℚ)) : WithBot (WithTop ℚ)) := by
  decide +kernel

theorem witness_F2xIgnoresSubnormalHandling :
    (floatOperand .f32 0x007FFFFF).isSubnormal .f32 = true ∧
      (floatOperand .f64 0x000FFFFFFFFFFFFF).isSubnormal .f64 = true := by decide

/-- R65: -0 and 1.0. -/
theorem witness_F2xMonotone :
    extReal .f64 (floatOperand .f64 0x8000000000000000) = some ((((0 : ℚ) : WithTop ℚ)) : WithBot (WithTop ℚ)) ∧
    extReal .f64 (floatOperand .f64 0x3FF0000000000000) = some ((((1 : ℚ) : WithTop ℚ)) : WithBot (WithTop ℚ)) ∧
    ((((0 : ℚ) : WithTop ℚ)) : WithBot (WithTop ℚ)) ≤ ((((1 : ℚ) : WithTop ℚ)) : WithBot (WithTop ℚ)) := by
  decide +kernel

/-- R12: a pattern of each kind: the smallest subnormal, the largest normal, an infinity, a NaN. -/
theorem witness_FormatsReadAndWrite :
    asDatum .f32 0x00000001 = .fin false 1 ∧ asDatum .f32 0x7F7FFFFF = .fin false (maxFinite .f32) ∧
    asDatum .f32 0xFF800000 = .inf true ∧ asDatum .f32 0x7F800001 = .nan := by decide

/-- R13: just below and at the overflow threshold, and a tie. -/
theorem witness_RneIsNearestTiesToEven :
    (maxFinite .f32 - 1 < maxFinite .f32 * 1 ∧ maxFinite .f32 * 1 ≤ maxFinite .f32) ∧
      rne .f32 false (2 ^ 24 + 1) 1 = .fin false (2 ^ 24) ∧ rne .f32 false (2 ^ 24 + 3) 1 = .fin false (2 ^ 24 + 4) := by
  decide

theorem witness_ScriptMatchesTransactions :
    runScript [] [⟨0x10, .literal 1, .literal 2⟩, ⟨0x60, .result 1, .literal 0⟩] =
      some [{ res := 3, err := false }, { res := 0x0303, err := false }] := by decide

end Sys2Proof.Tests
end

section
/-! Float primitives: one rule per primitive, and `rne` as a function of the ratio it rounds (R12 to R14). -/

namespace Sys2Proof.Machine

/-! ## Powers of two of the formats -/

theorem pow_expBits (f : FloatFmt) : 2 ^ f.expBits = 2 * emax f + 2 := by cases f <;> rfl

theorem emax_pos (f : FloatFmt) : 0 < emax f := by cases f <;> decide

theorem unitExp_succ (f : FloatFmt) : unitExp f + 1 = emax f + f.fracBits := by
  have := emax_pos f
  simp only [unitExp]
  omega

theorem unitsPerOne_eq (f : FloatFmt) : unitsPerOne f = 2 ^ unitExp f := pow2_eq _

@[simp] theorem expAllOnes_eq (f : FloatFmt) : expAllOnes f = 2 ^ f.expBits - 1 := by simp [expAllOnes]

/-- The exponent of the highest binade, counted from the lowest. -/
def topExp (f : FloatFmt) : Nat := 2 ^ f.expBits - 3

theorem maxFinite_eq (f : FloatFmt) : maxFinite f = (2 ^ (f.fracBits + 1) - 1) * 2 ^ topExp f := by
  simp [maxFinite, precision, topExp, Nat.sub_sub]

/-! ## Rational values -/

theorem signedValue_false (f : FloatFmt) (mag : Nat) : signedValue f false mag = (mag : ℚ) / unitsPerOne f := rfl

theorem signedValue_true (f : FloatFmt) (mag : Nat) : signedValue f true mag = -((mag : ℚ) / unitsPerOne f) := by
  simp [signedValue, neg_div]

/-! ## Rounding depends on the ratio alone -/

theorem roundHalfEven_mul_right (n d : Nat) {k : Nat} (hk : 0 < k) :
    roundHalfEven (n * k) (d * k) = roundHalfEven n d := by
  have hlow : 2 * (n % d * k) < d * k ↔ 2 * (n % d) < d := by
    rw [← Nat.mul_assoc]; exact Nat.mul_lt_mul_right hk
  have hhigh : d * k < 2 * (n % d * k) ↔ d < 2 * (n % d) := by
    rw [← Nat.mul_assoc]; exact Nat.mul_lt_mul_right hk
  simp only [roundHalfEven, Nat.mul_div_mul_right _ _ hk, Nat.mul_mod_mul_right, hlow, hhigh]

theorem rneMag_mul_right (f : FloatFmt) (num den : Nat) {k : Nat} (hk : 0 < k) :
    rneMag f (num * k) (den * k) = rneMag f num den := by
  simp only [rneMag, Nat.mul_div_mul_right _ _ hk]
  rw [Nat.mul_right_comm, roundHalfEven_mul_right _ _ hk]

theorem rne_mul_right (f : FloatFmt) (neg : Bool) (num den : Nat) {k : Nat} (hk : 0 < k) :
    rne f neg (num * k) (den * k) = rne f neg num den := by
  have hover : maxFinite f * (den * k) ≤ num * k ↔ maxFinite f * den ≤ num := by
    rw [← Nat.mul_assoc]; exact Nat.mul_le_mul_right_iff hk
  simp only [rne, hover, rneMag_mul_right f num den hk]

/-- Equal fractions are rounded alike. -/
theorem rne_congr_ratio (f : FloatFmt) (neg : Bool) {a b c d : Nat} (hb : 0 < b) (hd : 0 < d)
    (h : a * d = c * b) : rne f neg a b = rne f neg c d := by
  calc rne f neg a b = rne f neg (a * d) (b * d) := (rne_mul_right f neg a b hd).symm
    _ = rne f neg (c * b) (d * b) := by rw [h, Nat.mul_comm b d]
    _ = rne f neg c d := rne_mul_right f neg c d hb

/-- Rounding a rational does not need its lowest terms. -/
theorem rneOf_natCast_div (f : FloatFmt) (a : Nat) {b : Nat} (hb : 0 < b) :
    rneOf f ((a : ℚ) / b) = rne f false (a * unitsPerOne f) b := by
  set r : ℚ := (a : ℚ) / b with hr
  have hb' : (b : ℚ) ≠ 0 := by exact_mod_cast hb.ne'
  have hnum : ((r.num.natAbs : Nat) : Int) = r.num :=
    Int.natAbs_of_nonneg (Rat.num_nonneg.2 (by rw [hr]; positivity))
  have hcross : r.num.natAbs * b = a * r.den := by
    have hq : (r.num : ℚ) * b = a * r.den := by
      rw [← Rat.mul_den_eq_num, hr]
      field_simp
    have hz : r.num * (b : Int) = (a : Int) * (r.den : Int) := by exact_mod_cast hq
    rw [← hnum] at hz
    exact_mod_cast hz
  refine rne_congr_ratio f false r.den_pos hb ?_
  rw [Nat.mul_right_comm, hcross, Nat.mul_right_comm]

/-- The sign does not affect which magnitude is chosen. -/
theorem rne_sign (f : FloatFmt) (neg : Bool) (num den : Nat) :
    rne f neg num den =
      match rne f false num den with
      | .fin _ mag => .fin neg mag
      | .inf _ => .inf neg
      | .nan => .nan := by
  by_cases h : maxFinite f * den ≤ num
  · rw [rne_of_le h, rne_of_le h]
  · rw [rne_of_lt (Nat.not_le.1 h), rne_of_lt (Nat.not_le.1 h)]

/-! ## Multiplication (R14) -/

@[simp] theorem fmul_nan_left (f : FloatFmt) (d : Datum) : fmul f .nan d = .nan := by cases d <;> rfl

@[simp] theorem fmul_nan_right (f : FloatFmt) (d : Datum) : fmul f d .nan = .nan := by cases d <;> rfl

@[simp] theorem fmul_inf_inf (f : FloatFmt) (s t : Bool) : fmul f (.inf s) (.inf t) = .inf (s ^^ t) := by
  simp [fmul]

@[simp] theorem fmul_inf_zero (f : FloatFmt) (s t : Bool) : fmul f (.inf s) (.fin t 0) = .nan := rfl

@[simp] theorem fmul_zero_inf (f : FloatFmt) (s t : Bool) : fmul f (.fin t 0) (.inf s) = .nan := rfl

theorem fmul_inf_fin (f : FloatFmt) (s t : Bool) {m : Nat} (hm : 0 < m) :
    fmul f (.inf s) (.fin t m) = .inf (s ^^ t) := by
  simp [fmul, hm.ne']

theorem fmul_fin_inf (f : FloatFmt) (s t : Bool) {m : Nat} (hm : 0 < m) :
    fmul f (.fin t m) (.inf s) = .inf (s ^^ t) := by
  simp [fmul, hm.ne', Bool.xor_comm s t]

/-- The exact product of two finite data, rounded as a rational, is the fraction that `fmul` rounds. -/
theorem rneOf_mul_signedValue (f : FloatFmt) (m n : Nat) :
    rneOf f (signedValue f false m * signedValue f false n) = rne f false (m * n) (unitsPerOne f) := by
  have hu := unitsPerOne_pos f
  have hprod : signedValue f false m * signedValue f false n =
      ((m * n : Nat) : ℚ) / ((unitsPerOne f * unitsPerOne f : Nat) : ℚ) := by
    rw [signedValue_false, signedValue_false, div_mul_div_comm]
    push_cast
    rfl
  rw [hprod, rneOf_natCast_div f _ (Nat.mul_pos hu hu), rne_mul_right f false _ _ hu]

/-- Settles O58: each special case is a rule of `fmul`; two finite data give one rounding of the exact product, whose
sign only decorates the magnitude. -/
theorem fmulRoundsOnce : Obligations.FmulRoundsOnce := by
  intro f d s t m n
  refine ⟨fmul_nan_left f d, fmul_nan_right f d, fmul_inf_zero f s t, fmul_zero_inf f s t, fmul_inf_inf f s t,
    fun hm => ⟨fmul_inf_fin f s t hm, fmul_fin_inf f s t hm⟩, ?_⟩
  rw [fmul_fin, rneOf_mul_signedValue, Bool.bne_eq_xor]
  exact rne_sign f (s ^^ t) (m * n) (unitsPerOne f)

/-! ## Saturating truncation (R16) -/

theorem floor_signedValue_false (f : FloatFmt) (mag : Nat) :
    ⌊signedValue f false mag⌋ = ((mag / unitsPerOne f : Nat) : Int) := by
  rw [signedValue_false, Rat.floor_natCast_div_natCast]
  rfl

theorem signedValue_false_nonneg (f : FloatFmt) (mag : Nat) : 0 ≤ signedValue f false mag := by
  rw [signedValue_false]
  positivity

theorem signedValue_true_nonpos (f : FloatFmt) (mag : Nat) : signedValue f true mag ≤ 0 := by
  rw [signedValue_true, ← signedValue_false]
  exact neg_nonpos.2 (signedValue_false_nonneg f mag)

@[simp] theorem satTrunc_nan (f : FloatFmt) (m : Nat) : satTrunc f .nan m = 0 := rfl

@[simp] theorem satTrunc_inf_neg (f : FloatFmt) (m : Nat) : satTrunc f (.inf true) m = 0 := rfl

@[simp] theorem satTrunc_inf_pos (f : FloatFmt) (m : Nat) : satTrunc f (.inf false) m = m := rfl

@[simp] theorem satTrunc_fin_neg (f : FloatFmt) (mag m : Nat) : satTrunc f (.fin true mag) m = 0 := rfl

theorem satTrunc_fin_pos (f : FloatFmt) (mag m : Nat) :
    satTrunc f (.fin false mag) m = min (mag / unitsPerOne f) m := rfl

/-- Settles O56: a negative datum truncates to at most 0, and a non-negative one to the quotient of its magnitude by the
units of 1.0. -/
theorem satTruncTruncatesAndClamps : Obligations.SatTruncTruncatesAndClamps := by
  intro f m
  refine ⟨satTrunc_nan f m, satTrunc_inf_neg f m, satTrunc_inf_pos f m, fun neg mag => ?_⟩
  cases neg with
  | true =>
    have hq := signedValue_true_nonpos f mag
    have hceil : ⌈signedValue f true mag⌉ ≤ 0 := Int.ceil_le.2 (by exact_mod_cast hq)
    have hfloor : ⌊signedValue f true mag⌋ ≤ 0 := (Int.floor_le_ceil _).trans hceil
    have htrunc :
        (if signedValue f true mag < 0 then ⌈signedValue f true mag⌉ else ⌊signedValue f true mag⌋) ≤ 0 := by
      split <;> assumption
    simp only [satTrunc_fin_neg]
    rw [if_pos htrunc]
    rfl
  | false =>
    simp only [if_neg (not_lt.2 (signedValue_false_nonneg f mag)), floor_signedValue_false, satTrunc_fin_pos]
    generalize mag / unitsPerOne f = quot
    omega

end Sys2Proof.Machine
end

section
/-! Bit patterns of the formats (R12): the three fields of a pattern, the position of a magnitude's last significand bit,
and reading and writing a datum field by field. -/

namespace Sys2Proof.Machine

/-- The sign of a bit pattern. -/
def patternNeg (f : FloatFmt) (x : Nat) : Bool := decide (2 ^ (f.expBits + f.fracBits) ≤ x)

/-- The biased exponent of a bit pattern. -/
def patternExp (f : FloatFmt) (x : Nat) : Nat := x / 2 ^ f.fracBits % 2 ^ f.expBits

/-- The fraction of a bit pattern. -/
def patternFrac (f : FloatFmt) (x : Nat) : Nat := x % 2 ^ f.fracBits

theorem patternFrac_lt (f : FloatFmt) (x : Nat) : patternFrac f x < 2 ^ f.fracBits :=
  Nat.mod_lt _ (Nat.two_pow_pos _)

/-- The top bit of a pattern of the format is its sign. -/
theorem div_signPlace {f : FloatFmt} {x : Nat} (hx : x < 2 ^ (1 + f.expBits + f.fracBits)) :
    x / 2 ^ (f.fracBits + f.expBits) = if patternNeg f x then 1 else 0 := by
  rw [Nat.add_comm f.fracBits]
  rw [Nat.add_assoc, Nat.pow_add] at hx
  unfold patternNeg
  by_cases hneg : 2 ^ (f.expBits + f.fracBits) ≤ x
  · simp only [hneg, decide_true, if_true]
    exact Nat.div_eq_of_lt_le (by omega) (by omega)
  · simp only [hneg, decide_false]
    exact Nat.div_eq_of_lt (by omega)

/-- `asF` in terms of the three fields. -/
theorem asDatum_eq {f : FloatFmt} {x : Nat} (hx : x < 2 ^ (1 + f.expBits + f.fracBits)) :
    asDatum f x =
      if patternExp f x = 2 ^ f.expBits - 1 then
        (if patternFrac f x = 0 then .inf (patternNeg f x) else .nan)
      else if patternExp f x = 0 then .fin (patternNeg f x) (patternFrac f x)
      else .fin (patternNeg f x) ((2 ^ f.fracBits + patternFrac f x) * 2 ^ (patternExp f x - 1)) := by
  have hsign : (x / 2 ^ (f.fracBits + f.expBits) % 2 == 1) = patternNeg f x := by
    rw [div_signPlace hx]
    cases patternNeg f x <;> rfl
  simp only [asDatum, pow2_eq, expAllOnes_eq, hsign]
  rfl

/-- A pattern is its three fields put together. -/
theorem pattern_fields {f : FloatFmt} {x : Nat} (hx : x < 2 ^ (1 + f.expBits + f.fracBits)) :
    signBit f (patternNeg f x) + patternExp f x * 2 ^ f.fracBits + patternFrac f x = x := by
  have hsign : signBit f (patternNeg f x) =
      2 ^ f.fracBits * (2 ^ f.expBits * (x / 2 ^ f.fracBits / 2 ^ f.expBits)) := by
    rw [Nat.div_div_eq_div_mul, ← Nat.pow_add, div_signPlace hx, ← Nat.mul_assoc, ← Nat.pow_add]
    cases patternNeg f x <;> simp [signBit]
  calc signBit f (patternNeg f x) + patternExp f x * 2 ^ f.fracBits + patternFrac f x
      = 2 ^ f.fracBits * (2 ^ f.expBits * (x / 2 ^ f.fracBits / 2 ^ f.expBits) + patternExp f x)
          + patternFrac f x := by rw [hsign, Nat.mul_add, Nat.mul_comm (patternExp f x)]
    _ = 2 ^ f.fracBits * (x / 2 ^ f.fracBits) + patternFrac f x := by rw [patternExp, Nat.div_add_mod]
    _ = x := Nat.div_add_mod x _

/-! ## The position of the last significand bit -/

theorem lastBit_of_lt {f : FloatFmt} {mag : Nat} (h : mag < 2 ^ (f.fracBits + 1)) : lastBit f mag = 0 := by
  rw [lastBit, floorLog2_eq]
  rcases Nat.eq_zero_or_pos mag with rfl | hpos
  · simp
  · have := (Nat.log2_lt hpos.ne').2 h
    omega

/-- A full significand of fracBits + 1 bits, e places up. -/
theorem lastBit_of_significand {f : FloatFmt} {k : Nat} (e : Nat) (hlo : 2 ^ f.fracBits ≤ k)
    (hhi : k < 2 ^ (f.fracBits + 1)) : lastBit f (k * 2 ^ e) = e := by
  have hpos : k * 2 ^ e ≠ 0 :=
    (Nat.mul_pos ((Nat.two_pow_pos f.fracBits).trans_le hlo) (Nat.two_pow_pos e)).ne'
  have hlog : (k * 2 ^ e).log2 = f.fracBits + e := by
    rw [Nat.log2_eq_iff hpos, Nat.add_right_comm, Nat.pow_add, Nat.pow_add]
    exact ⟨Nat.mul_le_mul_right _ hlo, Nat.mul_lt_mul_of_pos_right hhi (Nat.two_pow_pos e)⟩
  rw [lastBit, floorLog2_eq, hlog]
  omega

/-! ## Writing a datum -/

theorem datumBits_of_lt {f : FloatFmt} (neg : Bool) {mag : Nat} (h : mag < 2 ^ f.fracBits) :
    datumBits f (.fin neg mag) = signBit f neg + mag := by
  have hlast : lastBit f mag = 0 := lastBit_of_lt (h.trans_le (Nat.pow_le_pow_right (by decide) (by omega)))
  simp [datumBits, hlast]

theorem datumBits_normal {f : FloatFmt} (neg : Bool) {frac : Nat} (e : Nat) (h : frac < 2 ^ f.fracBits) :
    datumBits f (.fin neg ((2 ^ f.fracBits + frac) * 2 ^ e)) =
      signBit f neg + (e + 1) * 2 ^ f.fracBits + frac := by
  have hlast := lastBit_of_significand (f := f) (k := 2 ^ f.fracBits + frac) e (by omega) (by rw [Nat.pow_succ]; omega)
  simp only [datumBits, hlast, pow2_eq, Nat.mul_div_cancel _ (Nat.two_pow_pos e)]
  rw [Nat.add_mul]
  omega

/-! ## The value of a datum read -/

theorem signedValue_subnormal (f : FloatFmt) (frac : Nat) :
    signedValue f false frac = (frac : ℚ) / 2 ^ f.fracBits * (2 : ℚ) ^ (1 - (emax f : Int)) := by
  have hpow : ((2 : ℚ) ^ unitExp f) * 2 = 2 ^ emax f * 2 ^ f.fracBits := by
    rw [← pow_succ, unitExp_succ, pow_add]
  rw [signedValue_false, unitsPerOne_eq, zpow_sub₀ (by norm_num), zpow_one, zpow_natCast]
  push_cast
  rw [div_mul_div_comm, div_eq_div_iff (by positivity) (by positivity)]
  linear_combination -(frac : ℚ) * hpow

theorem signedValue_normal (f : FloatFmt) (frac : Nat) {exp : Nat} (hexp : 0 < exp) :
    signedValue f false ((2 ^ f.fracBits + frac) * 2 ^ (exp - 1)) =
      (1 + (frac : ℚ) / 2 ^ f.fracBits) * (2 : ℚ) ^ ((exp : Int) - (emax f : Int)) := by
  obtain ⟨e, rfl⟩ := Nat.exists_eq_add_of_le' hexp
  have hscale : signedValue f false ((2 ^ f.fracBits + frac) * 2 ^ e) =
      signedValue f false (2 ^ f.fracBits + frac) * 2 ^ e := by
    rw [signedValue_false, signedValue_false]
    push_cast
    ring
  have hexpand : ((e + 1 : Nat) : Int) - (emax f : Int) = (1 - (emax f : Int)) + (e : Int) := by push_cast; ring
  rw [Nat.add_sub_cancel, hscale, signedValue_subnormal, hexpand, zpow_add₀ (by norm_num), zpow_natCast]
  push_cast
  rw [add_div, div_self (by positivity)]
  ring

/-! ## Reading a pattern, by its exponent field -/

section
variable {f : FloatFmt} {x : Nat} (hx : x < 2 ^ (1 + f.expBits + f.fracBits))
include hx

theorem asDatum_eq_nan_iff :
    asDatum f x = .nan ↔ patternExp f x = 2 ^ f.expBits - 1 ∧ patternFrac f x ≠ 0 := by
  rw [asDatum_eq hx]
  split_ifs <;> simp_all

theorem asDatum_eq_inf_iff :
    asDatum f x = .inf (patternNeg f x) ↔ patternExp f x = 2 ^ f.expBits - 1 ∧ patternFrac f x = 0 := by
  rw [asDatum_eq hx]
  split_ifs <;> simp_all

theorem asDatum_of_exp_zero (h : patternExp f x = 0) :
    asDatum f x = .fin (patternNeg f x) (patternFrac f x) := by
  have hne : (0 : Nat) ≠ 2 ^ f.expBits - 1 := by have := pow_expBits f; omega
  rw [asDatum_eq hx, h, if_neg hne, if_pos rfl]

theorem asDatum_of_normal (hlo : 0 < patternExp f x) (hhi : patternExp f x < 2 ^ f.expBits - 1) :
    asDatum f x = .fin (patternNeg f x) ((2 ^ f.fracBits + patternFrac f x) * 2 ^ (patternExp f x - 1)) := by
  rw [asDatum_eq hx, if_neg hhi.ne, if_neg hlo.ne']

theorem datumBits_asDatum (h : asDatum f x ≠ .nan) : datumBits f (asDatum f x) = x := by
  have hfrac := patternFrac_lt f x
  have hexp : patternExp f x < 2 ^ f.expBits := Nat.mod_lt _ (Nat.two_pow_pos _)
  have hfields := pattern_fields hx
  rcases Nat.eq_zero_or_pos (patternExp f x) with hzero | hpos
  · rw [asDatum_of_exp_zero hx hzero, datumBits_of_lt _ hfrac]
    simpa [hzero] using hfields
  · by_cases hones : patternExp f x = 2 ^ f.expBits - 1
    · have hzero : patternFrac f x = 0 := by
        by_contra hne
        exact h ((asDatum_eq_nan_iff hx).2 ⟨hones, hne⟩)
      rw [(asDatum_eq_inf_iff hx).2 ⟨hones, hzero⟩]
      simpa [datumBits, hones, hzero] using hfields
    · rw [asDatum_of_normal hx hpos (by omega), datumBits_normal _ _ hfrac, Nat.sub_add_cancel hpos]
      exact hfields

end

/-- Settles O54: the cases of the exponent field, each with the value its datum has, and writing undoes reading. -/
theorem formatsReadAndWrite : Obligations.FormatsReadAndWrite := by
  intro f x hx
  exact ⟨asDatum_eq_nan_iff hx, asDatum_eq_inf_iff hx,
    fun hzero => ⟨_, asDatum_of_exp_zero hx hzero, signedValue_subnormal f _⟩,
    fun hlo hhi => ⟨_, asDatum_of_normal hx hlo hhi, signedValue_normal f _ hlo⟩,
    datumBits_asDatum hx⟩

end Sys2Proof.Machine
end

section
/-! Rounding to the nearest datum, ties to even (R13): the nearest multiple of the spacing of magnitudes around the number
rounded is nearest among all magnitudes of the format. Then the constants that the rounding fixes (R15, R17). -/

namespace Sys2Proof.Machine

/-! ## The nearest multiple of the divisor -/

theorem two_mul_abs_sub_roundHalfEven_le (n : Nat) {d : Nat} (hd : 0 < d) :
    2 * |(n : Int) - d * roundHalfEven n d| ≤ d := by
  obtain ⟨hlo, hhi⟩ := roundHalfEven_near n hd
  have hlo' : (2 : Int) * (d * roundHalfEven n d) ≤ 2 * n + d := by exact_mod_cast hlo
  have hhi' : (2 : Int) * n ≤ 2 * (d * roundHalfEven n d) + d := by exact_mod_cast hhi
  have habs : |(n : Int) - d * roundHalfEven n d| ≤ (d : Int) / 2 := abs_le.2 ⟨by omega, by omega⟩
  omega

/-- Half a divisor away is a tie. -/
theorem roundHalfEven_even_of_half {n d : Nat} (hd : 0 < d) (h : 2 * |(n : Int) - d * roundHalfEven n d| = d) :
    roundHalfEven n d % 2 = 0 := by
  refine roundHalfEven_tie_even ?_
  generalize roundHalfEven n d = r at h
  rw [← Nat.mul_mod_mul_left]
  have hside : 2 * n = d + 2 * d * r ∨ 2 * n + 2 * d = d + 2 * d * r := by
    rw [Nat.mul_assoc]
    rcases abs_cases ((n : Int) - d * r) with ⟨habs, -⟩ | ⟨habs, -⟩ <;> rw [habs] at h
    · left; zify; linarith
    · right; zify; linarith
  have hmod : (d + 2 * d * r) % (2 * d) = d := by
    rw [Nat.add_mul_mod_self_left, Nat.mod_eq_of_lt (by omega)]
  rcases hside with hside | hside
  · rw [hside, hmod]
  · rw [← Nat.add_mod_right, hside, hmod]

/-- Two different multiples of d are at least d apart. -/
theorem le_abs_sub_add_abs_sub (n : Int) (d : Nat) {r k : Nat} (h : k ≠ r) :
    (d : Int) ≤ |n - d * r| + |n - d * k| := by
  have hone : (1 : Int) ≤ |(k : Int) - r| := Int.one_le_abs (by omega)
  calc (d : Int) ≤ d * |(k : Int) - r| := le_mul_of_one_le_right (by omega) hone
    _ = |(n - d * r) - (n - d * k)| := by
        rw [← Nat.abs_cast d, ← abs_mul, Nat.abs_cast]
        congr 1
        ring
    _ ≤ |n - d * r| + |n - d * k| := abs_sub _ _

/-- No multiple of the divisor is nearer than the rounded one, and another that is as near leaves it even. -/
theorem roundHalfEven_nearest (n : Nat) {d : Nat} (hd : 0 < d) (k : Nat) :
    |(n : Int) - d * roundHalfEven n d| ≤ |(n : Int) - d * k| ∧
      (k ≠ roundHalfEven n d → |(n : Int) - d * roundHalfEven n d| = |(n : Int) - d * k| →
        roundHalfEven n d % 2 = 0) := by
  have hhalf := two_mul_abs_sub_roundHalfEven_le n hd
  by_cases hk : k = roundHalfEven n d
  · exact ⟨by rw [hk], fun hne => absurd hk hne⟩
  · have hapart := le_abs_sub_add_abs_sub n d hk
    exact ⟨by linarith, fun _ heq => roundHalfEven_even_of_half hd (by linarith)⟩

/-! ## The spacing of magnitudes -/

theorem lt_pow_lastBit (f : FloatFmt) (mag : Nat) : mag < 2 ^ (f.fracBits + 1 + lastBit f mag) := by
  refine Nat.lt_log2_self.trans_le (Nat.pow_le_pow_right (by decide) ?_)
  rw [lastBit, floorLog2_eq]
  omega

theorem pow_lastBit_le {f : FloatFmt} {mag : Nat} (h : lastBit f mag ≠ 0) :
    2 ^ (f.fracBits + lastBit f mag) ≤ mag := by
  rw [lastBit, floorLog2_eq] at h ⊢
  have hmag : mag ≠ 0 := by
    rintro rfl
    simp at h
  calc 2 ^ (f.fracBits + (mag.log2 - f.fracBits)) = 2 ^ mag.log2 := by congr 1; omega
    _ ≤ mag := Nat.log2_self_le hmag

theorem lt_pow_lastBit_mul (f : FloatFmt) (num : Nat) {den : Nat} (hden : 0 < den) :
    num < 2 ^ (f.fracBits + 1 + lastBit f (num / den)) * den :=
  (Nat.div_lt_iff_lt_mul hden).1 (lt_pow_lastBit f _)

theorem pow_lastBit_mul_le {f : FloatFmt} {num den : Nat} (hden : 0 < den) (h : lastBit f (num / den) ≠ 0) :
    2 ^ (f.fracBits + lastBit f (num / den)) * den ≤ num :=
  (Nat.le_div_iff_mul_le hden).1 (pow_lastBit_le h)

/-- From 2 ^ (fracBits + s) on, the magnitudes of the format are multiples of 2 ^ s. -/
theorem Representable.pow_dvd {f : FloatFmt} {mag s : Nat} (h : Representable f mag)
    (hs : 2 ^ (f.fracBits + s) ≤ mag) : 2 ^ s ∣ mag := by
  obtain ⟨-, k, e, hk, rfl⟩ := h
  have hlt : 2 ^ (f.fracBits + s) < 2 ^ (precision f + e) := by
    rw [Nat.pow_add 2 (precision f)]
    exact hs.trans_lt (Nat.mul_lt_mul_of_pos_right hk (Nat.two_pow_pos e))
  have hexp := (Nat.pow_lt_pow_iff_right (by decide)).1 hlt
  rw [precision] at hexp
  exact (Nat.pow_dvd_pow 2 (by omega)).mul_left k

/-! ## The significand that rounding chooses -/

/-- The significand of `rneMag f num den`, in the spacing of the magnitudes around num / den. -/
def roundedSig (f : FloatFmt) (num den : Nat) : Nat := roundHalfEven num (den * 2 ^ lastBit f (num / den))

theorem rneMag_eq (f : FloatFmt) (num den : Nat) :
    rneMag f num den = roundedSig f num den * 2 ^ lastBit f (num / den) := by
  simp [rneMag, roundedSig]

/-- The distance to a multiple of the spacing, in the terms of `roundHalfEven`. -/
theorem sub_mul_spacing (f : FloatFmt) (num den k : Nat) :
    (num : Int) - (k * 2 ^ lastBit f (num / den) : Nat) * den =
      num - (den * 2 ^ lastBit f (num / den) : Nat) * k := by
  push_cast
  ring

section
variable (f : FloatFmt) {num den : Nat} (hden : 0 < den)
include hden

/-- A multiple of the spacing that bounds the number rounded bounds the significand from above. -/
theorem roundedSig_le {k : Nat} (h : num ≤ k * 2 ^ lastBit f (num / den) * den) : roundedSig f num den ≤ k := by
  have hpos : 0 < den * 2 ^ lastBit f (num / den) := Nat.mul_pos hden (Nat.two_pow_pos _)
  calc roundedSig f num den ≤ roundHalfEven (k * (den * 2 ^ lastBit f (num / den))) _ :=
        roundHalfEven_mono (by rwa [Nat.mul_comm den, ← Nat.mul_assoc]) hpos
    _ = k := roundHalfEven_mul k hpos

/-- And one that the number rounded reaches, from below. -/
theorem le_roundedSig {k : Nat} (h : k * 2 ^ lastBit f (num / den) * den ≤ num) : k ≤ roundedSig f num den := by
  have hpos : 0 < den * 2 ^ lastBit f (num / den) := Nat.mul_pos hden (Nat.two_pow_pos _)
  calc k = roundHalfEven (k * (den * 2 ^ lastBit f (num / den))) _ := (roundHalfEven_mul k hpos).symm
    _ ≤ roundedSig f num den := roundHalfEven_mono (by rwa [Nat.mul_comm den, ← Nat.mul_assoc]) hpos

theorem roundedSig_le_pow : roundedSig f num den ≤ 2 ^ (f.fracBits + 1) := by
  refine roundedSig_le f hden ?_
  rw [← Nat.pow_add]
  exact (lt_pow_lastBit_mul f num hden).le

theorem pow_le_roundedSig (h : lastBit f (num / den) ≠ 0) : 2 ^ f.fracBits ≤ roundedSig f num den := by
  refine le_roundedSig f hden ?_
  rw [← Nat.pow_add]
  exact pow_lastBit_mul_le hden h

/-- Below the largest finite magnitude the spacing is at most that of the highest binade. -/
theorem lastBit_le_topExp (h : num < maxFinite f * den) : lastBit f (num / den) ≤ topExp f := by
  by_cases hzero : lastBit f (num / den) = 0
  · omega
  · have hfin : 2 ^ (f.fracBits + lastBit f (num / den)) < maxFinite f :=
      Nat.lt_of_mul_lt_mul_right ((pow_lastBit_mul_le hden hzero).trans_lt h)
    have htop : maxFinite f ≤ 2 ^ (f.fracBits + 1 + topExp f) := by
      rw [maxFinite_eq, Nat.pow_add 2 (f.fracBits + 1)]
      exact Nat.mul_le_mul_right _ (Nat.sub_le _ _)
    have := (Nat.pow_lt_pow_iff_right (by decide)).1 (hfin.trans_le htop)
    omega

theorem rneMag_le_maxFinite (h : num < maxFinite f * den) : rneMag f num den ≤ maxFinite f := by
  have hsplit : maxFinite f = (2 ^ (f.fracBits + 1) - 1) * 2 ^ (topExp f - lastBit f (num / den)) *
      2 ^ lastBit f (num / den) := by
    rw [Nat.mul_assoc, ← Nat.pow_add, Nat.sub_add_cancel (lastBit_le_topExp f hden h), maxFinite_eq]
  rw [rneMag_eq]
  calc roundedSig f num den * 2 ^ lastBit f (num / den) ≤ _ :=
        Nat.mul_le_mul_right _ (roundedSig_le f hden (hsplit ▸ h.le))
    _ = maxFinite f := hsplit.symm

theorem representable_rneMag (h : num < maxFinite f * den) : Representable f (rneMag f num den) := by
  refine ⟨rneMag_le_maxFinite f hden h, ?_⟩
  rw [rneMag_eq, precision]
  rcases (roundedSig_le_pow f hden).lt_or_eq with hlt | heq
  · exact ⟨_, _, hlt, rfl⟩
  · exact ⟨1, f.fracBits + 1 + lastBit f (num / den), Nat.one_lt_two_pow (by omega), by
      rw [heq, Nat.one_mul, ← Nat.pow_add]⟩

/-- An even choice is an even significand of the result, also where it carries into the next binade. -/
theorem rneMag_significand_even (h : roundedSig f num den % 2 = 0) :
    rneMag f num den / 2 ^ lastBit f (rneMag f num den) % 2 = 0 := by
  have hfrac : 0 < f.fracBits := by cases f <;> decide
  rw [rneMag_eq]
  rcases (roundedSig_le_pow f hden).lt_or_eq with hlt | heq
  · have hlast : lastBit f (roundedSig f num den * 2 ^ lastBit f (num / den)) = lastBit f (num / den) := by
      by_cases hzero : lastBit f (num / den) = 0
      · rw [hzero, Nat.pow_zero, Nat.mul_one, lastBit_of_lt hlt]
      · exact lastBit_of_significand _ (pow_le_roundedSig f hden hzero) hlt
    rw [hlast, Nat.mul_div_cancel _ (Nat.two_pow_pos _), h]
  · have hcarry : roundedSig f num den * 2 ^ lastBit f (num / den) =
        2 ^ f.fracBits * 2 ^ (lastBit f (num / den) + 1) := by
      rw [heq, ← Nat.pow_add, ← Nat.pow_add, Nat.add_right_comm, Nat.add_assoc]
    rw [hcarry, lastBit_of_significand _ le_rfl (Nat.pow_lt_pow_right (by decide) (by omega)),
      Nat.mul_div_cancel _ (Nat.two_pow_pos _), Nat.two_pow_mod_two_eq_zero]
    exact hfrac

/-! ## Nearest among all magnitudes -/

/-- Among the multiples of the spacing, `rneMag` is nearest. -/
theorem rneMag_nearest_multiple (k : Nat) :
    |(num : Int) - rneMag f num den * den| ≤ |(num : Int) - (k * 2 ^ lastBit f (num / den) : Nat) * den| ∧
      (k * 2 ^ lastBit f (num / den) ≠ rneMag f num den →
        |(num : Int) - rneMag f num den * den| = |(num : Int) - (k * 2 ^ lastBit f (num / den) : Nat) * den| →
        roundedSig f num den % 2 = 0) := by
  obtain ⟨hnear, htie⟩ := roundHalfEven_nearest num (Nat.mul_pos hden (Nat.two_pow_pos (lastBit f (num / den)))) k
  rw [rneMag_eq, sub_mul_spacing, sub_mul_spacing]
  exact ⟨hnear, fun hne => htie fun hk => hne (by rw [hk, roundedSig])⟩

/-- A magnitude off the spacing lies below the binade, where the binade's first magnitude is nearer. -/
theorem rneMag_nearer_of_not_dvd {m : Nat} (hm : Representable f m) (hdvd : ¬ 2 ^ lastBit f (num / den) ∣ m) :
    |(num : Int) - rneMag f num den * den| < |(num : Int) - m * den| := by
  have hzero : lastBit f (num / den) ≠ 0 := fun h => hdvd (by rw [h]; exact one_dvd m)
  have hbelow : m < 2 ^ (f.fracBits + lastBit f (num / den)) := by
    by_contra hge
    exact hdvd (hm.pow_dvd (Nat.not_lt.1 hge))
  have hstart := pow_lastBit_mul_le hden hzero
  have hfirst := (rneMag_nearest_multiple f (num := num) hden (2 ^ f.fracBits)).1
  rw [← Nat.pow_add] at hfirst
  refine hfirst.trans_lt ?_
  have hmul := Nat.mul_lt_mul_of_pos_right hbelow hden
  generalize 2 ^ (f.fracBits + lastBit f (num / den)) = start at hstart hmul ⊢
  zify at hstart hmul
  rw [abs_of_nonneg (by linarith), abs_of_nonneg (by linarith)]
  linarith

/-- No magnitude of the format is nearer than `rneMag`, and one as near leaves its significand even. -/
theorem rneMag_nearest {m : Nat} (hm : Representable f m) :
    |(num : Int) - rneMag f num den * den| ≤ |(num : Int) - m * den| ∧
      (m ≠ rneMag f num den → |(num : Int) - rneMag f num den * den| = |(num : Int) - m * den| →
        rneMag f num den / 2 ^ lastBit f (rneMag f num den) % 2 = 0) := by
  by_cases hdvd : 2 ^ lastBit f (num / den) ∣ m
  · obtain ⟨k, rfl⟩ := hdvd
    rw [Nat.mul_comm _ k]
    obtain ⟨hnear, htie⟩ := rneMag_nearest_multiple f hden k
    exact ⟨hnear, fun hne heq => rneMag_significand_even f hden (htie hne heq)⟩
  · have hlt := rneMag_nearer_of_not_dvd f hden hm hdvd
    exact ⟨hlt.le, fun _ heq => absurd heq hlt.ne⟩

end

/-- Settles O55: the overflow test is the first branch of `rne`; below it the magnitude chosen is representable and
nearest. -/
theorem rneIsNearestTiesToEven : Obligations.RneIsNearestTiesToEven := by
  intro f neg num den hden
  exact ⟨rne_of_le, fun hlt => ⟨_, rne_of_lt hlt, representable_rneMag f hden hlt,
    fun _ hm => rneMag_nearest f hden hm⟩⟩

/-! ## Exact conversions and constants (R15, R17) -/

/-- A magnitude of the format is rounded to itself. -/
theorem rneMag_of_representable {f : FloatFmt} {m : Nat} (hm : Representable f m) : rneMag f m 1 = m := by
  have hnear := (rneMag_nearest f (num := m) Nat.one_pos hm).1
  rw [Nat.cast_one, mul_one, mul_one, sub_self, abs_zero, abs_nonpos_iff] at hnear
  omega

theorem rne_of_representable {f : FloatFmt} {m : Nat} (neg : Bool) (hm : Representable f m) (hlt : m < maxFinite f) :
    rne f neg m 1 = .fin neg m := by
  rw [rne_of_lt (by rwa [Nat.mul_one]), rneMag_of_representable hm]

theorem mul_unitsPerOne_lt_maxFinite (f : FloatFmt) {n : Nat} (h : n ≤ 65535) : n * unitsPerOne f < maxFinite f := by
  have hfrac : 65535 < 2 ^ (f.fracBits + 1) - 1 := by cases f <;> decide
  have hexp : unitExp f ≤ topExp f := by cases f <;> decide
  rw [maxFinite_eq, unitsPerOne_eq]
  calc n * 2 ^ unitExp f < (2 ^ (f.fracBits + 1) - 1) * 2 ^ unitExp f :=
        Nat.mul_lt_mul_of_pos_right (by omega) (Nat.two_pow_pos _)
    _ ≤ (2 ^ (f.fracBits + 1) - 1) * 2 ^ topExp f :=
        Nat.mul_le_mul_left _ (Nat.pow_le_pow_right (by decide) hexp)

theorem representable_mul_unitsPerOne (f : FloatFmt) {n : Nat} (h : n ≤ 65535) :
    Representable f (n * unitsPerOne f) := by
  have hprec : 65535 < 2 ^ precision f := by cases f <;> decide
  exact ⟨(mul_unitsPerOne_lt_maxFinite f h).le, n, unitExp f, by omega, by rw [unitsPerOne_eq]⟩

/-- `uint_to_F` is exact on every raw value. -/
theorem uintToFloat_eq (f : FloatFmt) {n : Nat} (h : n ≤ 65535) : uintToFloat f n = .fin false (n * unitsPerOne f) :=
  rne_of_representable false (representable_mul_unitsPerOne f h) (mul_unitsPerOne_lt_maxFinite f h)

theorem maxRaw_pos (w : FracWidth) : 0 < w.maxRaw := by cases w <;> decide

theorem reciprocal_eq_rneOf (f : FloatFmt) (w : FracWidth) : reciprocal f w = rneOf f (1 / (w.maxRaw : ℚ)) := by
  have h := rneOf_natCast_div f 1 (maxRaw_pos w)
  rw [Nat.cast_one, Nat.one_mul] at h
  rw [h, reciprocal]

/-- Settles O57: one rounding of 1 / MAX(W), exact conversions, and the table of R17 evaluated. -/
theorem floatConstants : Obligations.FloatConstants := by
  refine ⟨fun f w => ⟨reciprocal_eq_rneOf f w, rfl⟩, fun f n h => uintToFloat_eq f h, ?_⟩
  decide

end Sys2Proof.Machine
end

section
/-! What one edge does, as one relation between the states before and after it: what transfers, what enters `Q`, and
what is added to the history (R26, R27, R31). -/

namespace Sys2Proof.Machine

/-! ## What transfers at an edge -/

/-- The response that transfers at the coming edge, if any. -/
def emitted (s : State) : List Response := if rspTransfers s then (responses s).take 1 else []

/-- The request that transfers at the coming edge, if any. -/
def taken (s : State) : List Request := if reqTransfers s then [s.pins.request] else []

theorem emitted_of_transfer {s : State} (h : rspTransfers s = true) {e : InFlight} {rest : List InFlight}
    (hq : s.q = e :: rest) : emitted s = [e.rsp] := by
  simp [emitted, h, responses, hq]

@[simp] theorem emitted_of_no_transfer {s : State} (h : rspTransfers s = false) : emitted s = [] := by
  simp [emitted, h]

@[simp] theorem taken_of_transfer {s : State} (h : reqTransfers s = true) : taken s = [s.pins.request] := by
  simp [taken, h]

@[simp] theorem taken_of_no_transfer {s : State} (h : reqTransfers s = false) : taken s = [] := by
  simp [taken, h]

/-- The response channel moves at most the head of `Q` from `Q` to the host. -/
theorem emitted_append_responses (s : State) : emitted s ++ responses (responseSide s) = responses s := by
  rw [responses_responseSide, emitted]
  split
  · rw [← List.drop_one, List.take_append_drop]
  · rfl

theorem responses_responseSide_of_transfer {s : State} (h : rspTransfers s = true) {e : InFlight}
    {rest : List InFlight} (hq : s.q = e :: rest) : responses (responseSide s) = rest.map InFlight.rsp := by
  rw [responses_responseSide, if_pos h, responses, hq, List.map_cons, List.tail_cons]

theorem responseSide_q (s : State) : (responseSide s).q = ageQueue (s.q.drop (emitted s).length) := by
  cases h : rspTransfers s with
  | true =>
    obtain ⟨e, rest, hq, -, hs⟩ := responseSide_of_transfer h
    simp [hs, hq, emitted_of_transfer h hq]
  | false => simp [responseSide_of_no_transfer h, h]

theorem responseSide_trace (s : State) : (responseSide s).trace = (emitted s).map .delivered ++ s.trace := by
  cases h : rspTransfers s with
  | true =>
    obtain ⟨e, rest, hq, -, hs⟩ := responseSide_of_transfer h
    simp [hs, emitted_of_transfer h hq]
  | false => simp [responseSide_of_no_transfer h, h]

/-- No transfer takes place unless the FXU runs and rst = 0. -/
theorem no_transfers {s : State} (h : ¬ (s.phase = .running ∧ s.pins.rst = false)) :
    reqTransfers s = false ∧ rspTransfers s = false := by
  constructor
  · rw [Bool.eq_false_iff, ne_eq, reqTransfers_iff]
    exact fun ⟨hp, hr, _⟩ => h ⟨hp, hr⟩
  · rw [Bool.eq_false_iff, ne_eq, rspTransfers_iff]
    exact fun ⟨hp, hr, _⟩ => h ⟨hp, hr⟩

/-! ## What an edge adds to the history -/

/-- The events of a request's acceptance, newest first: the fault of an illegal command is recorded after it. -/
def requestEvents (r : Request) : List Event :=
  match decode r.cmd with
  | .ok _ => [.accepted r]
  | .error _ => [.programFault .illegalCommand, .accepted r]

/-- The events of an edge without reset, newest first. -/
def edgeEvents (s : State) : List Event := (taken s).flatMap requestEvents ++ (emitted s).map .delivered

theorem deliveredIn_append (l l' : List Event) : deliveredIn (l ++ l') = deliveredIn l' ++ deliveredIn l := by
  simp [deliveredIn]

theorem acceptedIn_append (l l' : List Event) : acceptedIn (l ++ l') = acceptedIn l' ++ acceptedIn l := by
  simp [acceptedIn]

@[simp] theorem deliveredIn_requestEvents (r : Request) : deliveredIn (requestEvents r) = [] := by
  unfold requestEvents; split <;> rfl

@[simp] theorem acceptedIn_requestEvents (r : Request) : acceptedIn (requestEvents r) = [r] := by
  unfold requestEvents; split <;> rfl

theorem reset_not_mem_requestEvents (r : Request) : Event.reset ∉ requestEvents r := by
  unfold requestEvents; split <;> simp

@[simp] theorem deliveredIn_edgeEvents (s : State) : deliveredIn (edgeEvents s) = emitted s := by
  have hresp : deliveredIn ((emitted s).map .delivered) = emitted s := by
    cases h : rspTransfers s with
    | true =>
      obtain ⟨e, rest, hq, -⟩ := responseSide_of_transfer h
      simp [emitted_of_transfer h hq]
    | false => simp [h]
  rw [edgeEvents, deliveredIn_append, hresp]
  cases h : reqTransfers s <;> simp [h]

@[simp] theorem acceptedIn_edgeEvents (s : State) : acceptedIn (edgeEvents s) = taken s := by
  have hresp : acceptedIn ((emitted s).map .delivered) = [] := by
    simp [acceptedIn, List.filterMap_eq_nil_iff, Event.acceptedRequest]
  rw [edgeEvents, acceptedIn_append, hresp]
  cases h : reqTransfers s <;> simp [h]

theorem reset_not_mem_edgeEvents (s : State) : Event.reset ∉ edgeEvents s := by
  simp [edgeEvents, reset_not_mem_requestEvents]

/-- The events of an edge without reset belong to the same stretch of history as those before it. -/
theorem sinceReset_edgeEvents (s : State) (l : List Event) :
    sinceReset (edgeEvents s ++ l) = edgeEvents s ++ sinceReset l := by
  refine List.takeWhile_append_of_pos fun e he => ?_
  rw [bne_iff_ne]
  rintro rfl
  exact reset_not_mem_edgeEvents s he

/-! ## An edge without reset of a running FXU -/

/-- The entries that enter `Q` at the coming edge: EXEC of the request that transfers, with its latency. -/
def entered (s : State) : List InFlight :=
  (taken s).map fun r => { rsp := execResponse r, wait := extraLatency s }

/-- `t` is the state after an edge without reset of the running FXU `s`, at which the host keeps its duties. -/
structure RunningEdge (s t : State) : Prop where
  rst : s.pins.rst = false
  running : s.phase = .running
  duty : brokenDuty s = none
  phase : t.phase = .running
  q : t.q = (responseSide s).q ++ entered s
  trace : t.trace = edgeEvents s ++ s.trace
  held : t.held = if s.pins.reqValid && !reqTransfers s then some s.pins.request else none

/-- A running FXU without reset whose host keeps its duties takes such an edge. -/
theorem exists_runningEdge {s : State} (hr : s.pins.rst = false) (hp : s.phase = .running)
    (hd : brokenDuty s = none) : ∃ t, step s = .next t ∧ RunningEdge s t := by
  cases ht : reqTransfers s with
  | false =>
    refine ⟨_, (step_run hr hp hd).trans (runEdge_idle ht), ⟨hr, hp, hd, ?_, ?_, ?_, rfl⟩⟩
    · simpa using hp
    · simp [entered, ht]
    · simp [edgeEvents, ht, responseSide_trace]
  | true =>
    refine ⟨_, (step_run hr hp hd).trans (runEdge_accept ht), ⟨hr, hp, hd, ?_, ?_, ?_, rfl⟩⟩
    · simpa using hp
    · simp [entered, ht]
    · cases hc : decode s.pins.cmd <;>
        simp [edgeEvents, requestEvents, Pins.request, ht, hc, responseSide_trace]

/-- Everything a step that answers a next state can have done. -/
theorem step_next_cases {s t : State} (h : step s = .next t) :
    (s.pins.rst = true ∧ t = resetEdge s) ∨
    (s.pins.rst = false ∧ s.phase = .unreset ∧ t = unresetEdge s) ∨ RunningEdge s t := by
  cases hr : s.pins.rst with
  | true => exact .inl ⟨rfl, by simpa [step_reset hr] using h.symm⟩
  | false =>
    cases hp : s.phase with
    | unreset => exact .inr (.inl ⟨rfl, rfl, by simpa [step_unreset hr hp] using h.symm⟩)
    | running =>
      cases hd : brokenDuty s with
      | some d => simp [step_broken hr hp hd] at h
      | none =>
        obtain ⟨u, hu, he⟩ := exists_runningEdge hr hp hd
        obtain rfl : u = t := by simpa [hu] using h
        exact .inr (.inr he)

theorem runningEdge_of_step {s t : State} (hr : s.pins.rst = false) (hp : s.phase = .running)
    (h : step s = .next t) : RunningEdge s t := by
  obtain ⟨hr', -⟩ | ⟨-, hp', -⟩ | he := step_next_cases h
  · simp [hr] at hr'
  · simp [hp] at hp'
  · exact he

section
variable {s t : State}

theorem RunningEdge.responses_eq (h : RunningEdge s t) :
    responses t = responses (responseSide s) ++ (taken s).map execResponse := by
  simp [responses, h.q, entered, Function.comp_def]

theorem RunningEdge.deliveredIn_eq (h : RunningEdge s t) :
    deliveredIn t.trace = deliveredIn s.trace ++ emitted s := by
  rw [h.trace, deliveredIn_append, deliveredIn_edgeEvents]

theorem RunningEdge.acceptedIn_eq (h : RunningEdge s t) :
    acceptedIn t.trace = acceptedIn s.trace ++ taken s := by
  rw [h.trace, acceptedIn_append, acceptedIn_edgeEvents]

theorem RunningEdge.deliveredIn_sinceReset (h : RunningEdge s t) :
    deliveredIn (sinceReset t.trace) = deliveredIn (sinceReset s.trace) ++ emitted s := by
  rw [h.trace, sinceReset_edgeEvents, deliveredIn_append, deliveredIn_edgeEvents]

theorem RunningEdge.acceptedIn_sinceReset (h : RunningEdge s t) :
    acceptedIn (sinceReset t.trace) = acceptedIn (sinceReset s.trace) ++ taken s := by
  rw [h.trace, sinceReset_edgeEvents, acceptedIn_append, acceptedIn_edgeEvents]

end

/-! ## The entries of `Q` -/

section
variable {s t : State} {e : InFlight} {i : Nat}

/-- Every entry that does not leave `Q` moves up past those that do, and waits one edge less. -/
theorem RunningEdge.getElem?_q (h : RunningEdge s t) (hi : s.q[i + (emitted s).length]? = some e) :
    t.q[i]? = some { e with wait := e.wait - 1 } := by
  have haged : (responseSide s).q[i]? = some { e with wait := e.wait - 1 } := by
    simp [responseSide_q, ageQueue, Nat.add_comm (emitted s).length, hi]
  rw [h.q, List.getElem?_append_left (List.getElem?_eq_some_iff.1 haged).1, haged]

/-- Where no response transfers, every entry keeps its place. -/
theorem RunningEdge.getElem?_q_of_no_transfer (h : RunningEdge s t) (hno : rspTransfers s = false)
    (hi : s.q[i]? = some e) : t.q[i]? = some { e with wait := e.wait - 1 } :=
  h.getElem?_q (by simpa [hno] using hi)

theorem exists_tail_of_head (hq : s.q[0]? = some e) : ∃ rest, s.q = e :: rest :=
  List.head?_eq_some_iff.1 (List.head?_eq_getElem?.trans hq)

/-- A head of `Q` that has to wait is not valid. -/
theorem rspValid_of_waiting_head (hp : s.phase = .running) (hq : s.q[0]? = some e) (hw : 0 < e.wait) :
    rspValid s = false := by
  rw [Bool.eq_false_iff, ne_eq, rspValid_running hp]
  rintro ⟨e', rest, hq', -, hw'⟩
  obtain rfl : e' = e := by simpa [hq'] using hq
  omega

theorem rspTransfers_of_waiting_head (hp : s.phase = .running) (hq : s.q[0]? = some e) (hw : 0 < e.wait) :
    rspTransfers s = false := by
  simp [rspTransfers, rspValid_of_waiting_head hp hq hw]

/-- A head of `Q` with no edge left to wait is valid, and on the bus. -/
theorem rspValid_of_ready_head (hp : s.phase = .running) (hr : s.pins.rst = false) (hq : s.q[0]? = some e)
    (hw : e.wait = 0) : rspValid s = true ∧ rspBus s = e.rsp := by
  obtain ⟨rest, hrest⟩ := exists_tail_of_head hq
  have hv : rspValid s = true := (rspValid_running hp).2 ⟨e, rest, hrest, hr, hw⟩
  exact ⟨hv, rspBus_of_valid hp hv hrest⟩

/-- An entry that has to wait does not leave `Q`. -/
theorem emitted_length_le_of_waiting (hp : s.phase = .running) (hi : s.q[i]? = some e) (hw : 0 < e.wait) :
    (emitted s).length ≤ i := by
  cases i with
  | zero => simp [rspTransfers_of_waiting_head hp hi hw]
  | succ i =>
    have hone : (emitted s).length ≤ 1 := by
      unfold emitted
      split
      · exact List.length_take_le 1 _
      · exact Nat.zero_le 1
    omega

end

end Sys2Proof.Machine
end

section
/-! The invariants of the machine, kept by every step (R25, R28, R29, R90). -/

namespace Sys2Proof.Machine

/-- A request enters `Q` only where there is room. -/
theorem RunningEdge.length_q_le {s t : State} (h : RunningEdge s t) (hs : s.q.length ≤ Config.depth) :
    t.q.length ≤ Config.depth := by
  have hresp := responseSide_length_le s
  rw [h.q, List.length_append]
  cases ht : reqTransfers s with
  | true =>
    obtain ⟨-, -, -, -, hroom⟩ := (reqTransfers_iff s).1 ht
    simp only [entered, taken_of_transfer ht, List.length_map, List.length_singleton]
    omega
  | false =>
    simp only [entered, taken_of_no_transfer ht, List.map_nil, List.length_nil]
    omega

/-- Settles O30, by the three kinds of edge: a reset empties `Q`, and a request enters it only where there is room. -/
theorem stepKeepsQueueWithinDepth : Obligations.StepKeepsQueueWithinDepth := by
  intro s t hs hst hpt
  obtain ⟨-, rfl⟩ | ⟨-, hp, rfl⟩ | he := step_next_cases hst
  · simp
  · simp [hp] at hpt
  · exact he.length_q_le (hs he.running)

/-- Settles O31: what an edge delivers comes off the front of `Q`, and EXEC of what it accepts goes to its end. -/
theorem stepKeepsAnsweredInOrder : Obligations.StepKeepsAnsweredInOrder := by
  intro s t hs hst hpt
  obtain ⟨-, rfl⟩ | ⟨-, hp, rfl⟩ | he := step_next_cases hst
  · simp
  · simp [hp] at hpt
  · calc deliveredIn (sinceReset t.trace) ++ responses t
        = deliveredIn (sinceReset s.trace) ++ (emitted s ++ responses (responseSide s)) ++
            (taken s).map execResponse := by
          rw [he.deliveredIn_sinceReset, he.responses_eq]
          simp only [List.append_assoc]
      _ = (acceptedIn (sinceReset s.trace)).map execResponse ++ (taken s).map execResponse := by
          rw [emitted_append_responses, hs he.running]
      _ = (acceptedIn (sinceReset t.trace)).map execResponse := by
          rw [he.acceptedIn_sinceReset, List.map_append]

/-- Settles O29: at reset `Q` and the history are empty. -/
theorem invariantsHoldAtReset : Obligations.InvariantsHoldAtReset := by
  have hq : State.reset.q = [] := rfl
  have htrace : sinceReset State.reset.trace = [] := rfl
  refine ⟨fun _ => ?_, fun _ => ?_, fun _ => ?_, ?_⟩
  · simp [hq]
  · simp [htrace, responses, hq]
  · simp [htrace, illegalRequests]
  · simp [SafeProgram, htrace]

end Sys2Proof.Machine
end

section
/-! The outputs, the transfers and the stops of one edge (10_state.md, R102, R105, R107). -/

namespace Sys2Proof.Machine

/-! ## Outputs -/

/-- Settles O25: with `Q` empty there is no response to offer, and rst = 1 holds req_ready low. -/
theorem resetState : Obligations.ResetState := by
  refine ⟨rfl, rfl, fun p => ⟨rfl, fun hp => ?_⟩⟩
  rw [Bool.eq_false_iff, ne_eq, reqReady_running rfl]
  simp [hp]

/-- Settles O28, from what each output says of `Q` and rst where it is 1. -/
theorem outputsFollowQueue : Obligations.OutputsFollowQueue := by
  intro s hp
  refine ⟨fun hfull => ?_, fun hrst => ⟨?_, ?_⟩, fun hq => ?_, fun hv => ?_⟩
  · rw [Bool.eq_false_iff, ne_eq, reqReady_running hp]
    rintro ⟨-, -, hroom⟩
    omega
  · rw [Bool.eq_false_iff, ne_eq, reqReady_running hp]
    simp [hrst]
  · rw [Bool.eq_false_iff, ne_eq, rspValid_running hp]
    simp [hrst]
  · rw [Bool.eq_false_iff, ne_eq, rspValid_running hp]
    simp [hq]
  · obtain ⟨e, rest, hq, -⟩ := (rspValid_running hp).1 hv
    simp [responses, hq, rspBus_of_valid hp hv hq]

/-! ## Edges at which a request transfers, or none -/

/-- Settles O18: accepting a word that decodes to `i` is `exec i`, which enters EXEC of the request. -/
theorem stepRunsDecodedCommand : Obligations.StepRunsDecodedCommand := by
  intro s i hd ht hc
  obtain ⟨hp, hr, -⟩ := (reqTransfers_iff s).1 ht
  have hresp : execResponse s.pins.request =
      { res := zext64 (commandResult i s.pins.a s.pins.b), err := false } := by
    simp [execResponse, Pins.request, hc]
  refine ⟨by simp, _, exec_eq i _, ?_, rfl, rfl, by simpa using hp, by simp [hresp], by simp⟩
  rw [step_run hr hp hd]
  simp [runEdge, ht, acceptRequest, hc, exec_eq]

/-- Settles O20: the edge is the response channel's part, which accepts nothing. -/
theorem stepWithoutRequestTransfer : Obligations.StepWithoutRequestTransfer := by
  intro s hp hr hd ht
  refine ⟨_, (step_run hr hp hd).trans (runEdge_idle ht), rfl, rfl, rfl, by simpa using hp, ?_, ?_⟩
  · exact acceptedIn_responseSide s
  · exact responses_responseSide s

/-- Settles O26: before the first reset a step only moves the wires. -/
theorem beforeFirstResetNothingTransfers : Obligations.BeforeFirstResetNothingTransfers := by
  intro s hp hr
  obtain ⟨hreq, hrsp⟩ := no_transfers (s := s) (by simp [hp])
  exact ⟨hreq, hrsp, unresetEdge s, step_unreset hr hp, rfl, hp, rfl⟩

/-- Settles O21: the response that transfers is the head of `Q`, which is valid and so on the bus. -/
theorem responseTransferEmitsOldest : Obligations.ResponseTransferEmitsOldest := by
  intro s hd ht
  obtain ⟨hp, hr, -⟩ := (rspTransfers_iff s).1 ht
  obtain ⟨e, rest, hq, hw, -⟩ := responseSide_of_transfer ht
  obtain ⟨t, hst, he⟩ := exists_runningEdge hr hp hd
  have hv : rspValid s = true := (rspValid_running hp).2 ⟨e, rest, hq, hr, hw⟩
  refine ⟨e, rest, t, hq, rspBus_of_valid hp hv hq, hst, ?_, ?_⟩
  · rw [he.deliveredIn_eq, emitted_of_transfer ht hq]
  · rw [he.responses_eq, responses_responseSide_of_transfer ht hq, taken]
    split <;> rfl

/-- Settles O34: what enters at the end of `Q` is EXEC of the request on the pins. -/
theorem responseDependsOnRequestOnly : Obligations.ResponseDependsOnRequestOnly := by
  have newest : ∀ s : State, brokenDuty s = none → reqTransfers s = true →
      ∃ t, step s = .next t ∧ (responses t).getLast? = some (execResponse s.pins.request) := by
    intro s hd ht
    obtain ⟨hp, hr, -⟩ := (reqTransfers_iff s).1 ht
    obtain ⟨t, hst, he⟩ := exists_runningEdge hr hp hd
    exact ⟨t, hst, by simp [he.responses_eq, ht]⟩
  intro s s' hd hd' ht ht' hreq
  obtain ⟨t, hst, hlast⟩ := newest s hd ht
  obtain ⟨t', hst', hlast'⟩ := newest s' hd' ht'
  exact ⟨t, t', hst, hst', hlast, hreq ▸ hlast'⟩

/-- Settles O27: a head that does not transfer stays the head of `Q`, with no edge left to wait. -/
theorem responseHeldUntilTaken : Obligations.ResponseHeldUntilTaken := by
  intro s t hp hv hready hst hrt
  obtain ⟨e, rest, hq, hr, hw⟩ := (rspValid_running hp).1 hv
  have he := runningEdge_of_step hr hp hst
  have hno : rspTransfers s = false := by simp [rspTransfers, hready]
  have hqt : t.q[0]? = some { e with wait := e.wait - 1 } := he.getElem?_q_of_no_transfer hno (by simp [hq])
  obtain ⟨hvt, hbus⟩ := rspValid_of_ready_head he.phase hrt hqt (by simp [hw])
  exact ⟨hvt, hbus.trans (rspBus_of_valid hp hv hq).symm⟩

/-! ## Stops -/

/-- A step stops exactly at an edge without reset of a running FXU at which a duty is broken. -/
theorem step_fault_iff (s : State) : (∃ f, step s = .fault f) ↔
    s.phase = .running ∧ s.pins.rst = false ∧ brokenDuty s ≠ none := by
  constructor
  · rintro ⟨f, hf⟩
    obtain ⟨-, h⟩ | ⟨-, -, h⟩ | ⟨hr, hp, d, hd, -⟩ | ⟨-, -, -, -, h⟩ | ⟨-, -, -, -, h⟩ := step_cases s
    · simp [h] at hf
    · simp [h] at hf
    · exact ⟨hp, hr, by simp [hd]⟩
    · simp [h] at hf
    · simp [h] at hf
  · rintro ⟨hp, hr, hd⟩
    obtain ⟨d, hd⟩ := Option.ne_none_iff_exists'.1 hd
    exact ⟨d, step_broken hr hp hd⟩

theorem brokenDuty_ne_none_iff (s : State) : brokenDuty s ≠ none ↔
    (∃ r, s.held = some r ∧ ¬ (s.pins.reqValid = true ∧ s.pins.request = r)) ∨
      (s.pins.reqValid = true ∧ s.pins.undriven = true) := by
  rw [ne_eq, brokenDuty_none_iff, not_and_or, not_not]
  simp only [not_forall, exists_prop]

theorem step_ne_refused (s : State) (r : Refusal) : step s ≠ .refused r := by
  obtain ⟨-, h⟩ | ⟨-, -, h⟩ | ⟨-, -, d, -, h⟩ | ⟨-, -, -, -, h⟩ | ⟨-, -, -, -, h⟩ := step_cases s <;> simp [h]

/-- Settles O22: where a step stops, that it refuses nothing, and what each kind of edge leaves to be held. -/
theorem stopsExactlyOnBrokenDuty : Obligations.StopsExactlyOnBrokenDuty := by
  intro s
  refine ⟨by rw [step_fault_iff, brokenDuty_ne_none_iff], step_ne_refused s, fun t hst => ?_⟩
  obtain ⟨hr, rfl⟩ | ⟨-, hp, rfl⟩ | he := step_next_cases hst
  · simp [hr]
  · simp [hp]
  · simp [he.held, he.running, he.rst]

end Sys2Proof.Machine
end

section
/-! Runs of edges against the transaction-level model (R31). -/

namespace Sys2Proof.Machine

/-! ## Runs, from their first edge and from their last -/

/-- A run of n + 1 edges is a step and a run of n edges. -/
theorem runEdges_succ {n : Nat} {s t : State} (h : runEdges (n + 1) s = .next t) :
    ∃ u, step s = .next u ∧ runEdges n u = .next t := by
  cases hst : step s with
  | next u => exact ⟨u, rfl, (runEdges_of_next n hst).symm.trans h⟩
  | fault r => simp [runEdges_of_fault n hst] at h
  | refused r => exact absurd hst (step_ne_refused s r)

/-- A run of n edges goes on with one more. -/
theorem runEdges_snoc {n : Nat} {s t u : State} (h : runEdges n s = .next t) (hst : step t = .next u) :
    runEdges (n + 1) s = .next u := by
  induction n generalizing s with
  | zero =>
    obtain rfl : s = t := by simpa using h
    exact runEdges_of_next 0 hst
  | succ n ih =>
    obtain ⟨v, hv, hrun⟩ := runEdges_succ h
    exact (runEdges_of_next (n + 1) hv).trans (ih hrun)

/-! ## The transactions of one edge -/

/-- The delivery of an edge without reset, if one takes place, takes the head off `Q`. -/
theorem transactAll_deliver (d : Nat) (s : State) :
    transactAll d (if rspTransfers s then [.deliver] else []) (responses s) =
      some (emitted s, responses (responseSide s)) := by
  cases h : rspTransfers s with
  | true =>
    obtain ⟨e, rest, hq, -⟩ := responseSide_of_transfer h
    rw [responses_responseSide_of_transfer h hq, emitted_of_transfer h hq]
    simp [responses, hq, transactAll, transact, emits]
  | false => simp [responses_responseSide, h, transactAll]

/-- The acceptance of an edge without reset, if one takes place, has room in what the delivery leaves of `Q`. -/
theorem transactAll_accept (s : State) :
    transactAll Config.depth (if reqTransfers s then [.accept s.pins.request] else []) (responses (responseSide s)) =
      some ([], responses (responseSide s) ++ (taken s).map execResponse) := by
  cases h : reqTransfers s with
  | true =>
    obtain ⟨-, -, -, -, hroom⟩ := (reqTransfers_iff s).1 h
    have hlen : (responses (responseSide s)).length < Config.depth := by
      simpa [responses] using (responseSide_length_le s).trans_lt hroom
    simp [h, transactAll, transact, emits, hlen]
  | false => simp [h, transactAll]

theorem acceptedRequest_edgeTransactions {s : State} (hr : s.pins.rst = false) :
    (edgeTransactions s).filterMap Transaction.acceptedRequest = taken s := by
  have hdel : (if rspTransfers s then [Transaction.deliver] else []).filterMap Transaction.acceptedRequest = [] := by
    split <;> rfl
  simp only [edgeTransactions, hr, Bool.false_eq_true, if_false, List.filterMap_append, hdel, List.nil_append, taken]
  split <;> rfl

/-- One edge is its transactions: enabled in turn, with what the edge delivers and accepts. -/
theorem step_refines_transactions {s t : State} (hst : step s = .next t) :
    ∃ out, transactAll Config.depth (edgeTransactions s) (responses s) = some (out, responses t) ∧
      deliveredIn t.trace = deliveredIn s.trace ++ out ∧
      acceptedIn t.trace = acceptedIn s.trace ++ (edgeTransactions s).filterMap Transaction.acceptedRequest := by
  obtain ⟨hr, rfl⟩ | ⟨hr, hp, rfl⟩ | he := step_next_cases hst
  · exact ⟨[], by simp [edgeTransactions, hr, transactAll, transact, emits], by simp,
      by simp [edgeTransactions, hr, Transaction.acceptedRequest]⟩
  · obtain ⟨hreq, hrsp⟩ := no_transfers (s := s) (by simp [hp])
    have hnone : edgeTransactions s = [] := by simp [edgeTransactions, hr, hreq, hrsp]
    exact ⟨[], by simp [hnone, transactAll, responses], by simp, by simp [hnone]⟩
  · refine ⟨emitted s, ?_, he.deliveredIn_eq, by rw [he.acceptedIn_eq, acceptedRequest_edgeTransactions he.rst]⟩
    simpa [edgeTransactions, he.rst, he.responses_eq] using
      transactAll_append (transactAll_deliver _ s) (transactAll_accept s)

/-- Settles O33, by induction on the number of edges: each edge's transactions, one after the other. -/
theorem runRefinesTransactions : Obligations.RunRefinesTransactions := by
  intro n
  induction n with
  | zero =>
    intro s t h
    obtain rfl : s = t := by simpa using h
    exact ⟨[], by simp [runTransactions, transactAll]⟩
  | succ n ih =>
    intro s t h
    obtain ⟨u, hst, hrun⟩ := runEdges_succ h
    obtain ⟨out, htr, hdel, hacc⟩ := step_refines_transactions hst
    obtain ⟨out', htr', hdel', hacc'⟩ := ih u t hrun
    rw [runTransactions_of_next n hst]
    exact ⟨out ++ out', transactAll_append htr htr', by simp [hdel', hdel], by simp [hacc', hacc]⟩

end Sys2Proof.Machine
end

section
/-! Progress, for every host that keeps its duties while rst stays 0 (R26, R27, R30): how long a response in flight and an
offered request wait. -/

namespace Sys2Proof.Machine

theorem DutifulHost.running {s : State} (hD : DutifulHost s) : s.phase = .running := hD.1

theorem DutifulHost.rst_low {s : State} (hD : DutifulHost s) : s.pins.rst = false := hD.2.1

/-- An edge with a dutiful host, with the dutiful host it leads to. -/
theorem exists_runningEdge_of_dutifulHost {s : State} (hD : DutifulHost s) :
    ∃ t, step s = .next t ∧ RunningEdge s t ∧ DutifulHost t := by
  obtain ⟨t, hst, hDt, -⟩ := step_of_dutifulHost hD
  exact ⟨t, hst, runningEdge_of_step hD.rst_low hD.running hst, hDt⟩

/-! ## No response before its latency -/

/-- While the entry at place `i` of `Q` has to wait, at most the `i` entries ahead of it are delivered, and once they
are, it stands at the head and is not valid. -/
theorem delivered_before_latency {n : Nat} : ∀ {s t : State} {i : Nat} {e : InFlight}, DutifulHost s →
    s.q[i]? = some e → n < e.wait → runEdges n s = .next t →
      (deliveredIn t.trace).length ≤ (deliveredIn s.trace).length + i ∧
      ((deliveredIn t.trace).length = (deliveredIn s.trace).length + i → rspValid t = false) := by
  induction n with
  | zero =>
    intro s t i e hD hi hw hrun
    obtain rfl : s = t := by simpa using hrun
    refine ⟨by omega, fun hlen => ?_⟩
    obtain rfl : i = 0 := by omega
    exact rspValid_of_waiting_head hD.running hi hw
  | succ n ih =>
    intro s t i e hD hi hw hrun
    obtain ⟨u, hst, he, hDu⟩ := exists_runningEdge_of_dutifulHost hD
    rw [runEdges_of_next n hst] at hrun
    obtain ⟨j, rfl⟩ := Nat.exists_eq_add_of_le' (emitted_length_le_of_waiting hD.running hi (by omega))
    have hplace : (deliveredIn s.trace).length + (j + (emitted s).length) = (deliveredIn u.trace).length + j := by
      rw [he.deliveredIn_eq, List.length_append]
      omega
    rw [hplace]
    exact ih hDu (he.getElem?_q hi) (by simp only; omega) hrun

/-! ## The oldest response -/

/-- As long as the host takes no response at an edge after its latency, the head of `Q` stays there, waiting one edge
less after each edge. -/
theorem head_kept {n : Nat} : ∀ {s : State} {e : InFlight}, DutifulHost s → s.q[0]? = some e →
    (∀ (m : Nat) (u : State), e.wait ≤ m → m < n → runEdges m s = .next u → u.pins.rspReady = false) →
    ∃ t, runEdges n s = .next t ∧ DutifulHost t ∧ t.q[0]? = some { e with wait := e.wait - n } ∧
      deliveredIn t.trace = deliveredIn s.trace := by
  induction n with
  | zero => exact fun {s e} hD hq _ => ⟨s, rfl, hD, hq, rfl⟩
  | succ n ih =>
    intro s e hD hq hpause
    obtain ⟨u, hst, he, hDu⟩ := exists_runningEdge_of_dutifulHost hD
    have hno : rspTransfers s = false := by
      rcases Nat.eq_zero_or_pos e.wait with hw | hw
      · simp [rspTransfers, hpause 0 s (by omega) (by omega) rfl]
      · exact rspTransfers_of_waiting_head hD.running hq hw
    obtain ⟨t, hrun, hDt, hqt, hdel⟩ := ih hDu (he.getElem?_q_of_no_transfer hno hq) fun m v hm hlt hv =>
      hpause (m + 1) v (by simp only at hm; omega) (by omega) ((runEdges_of_next m hst).trans hv)
    refine ⟨t, (runEdges_of_next n hst).trans hrun, hDt, ?_, ?_⟩
    · simpa [Nat.sub_sub, Nat.add_comm] using hqt
    · simp [hdel, he.deliveredIn_eq, hno]

/-- Settles O35: a request enters with its latency, an entry is not delivered before it, and the head is valid after
it. -/
theorem oldestResponseBecomesValid : Obligations.OldestResponseBecomesValid := by
  intro s hD
  refine ⟨fun ht => ?_, fun i e n t hi hw hrun => delivered_before_latency hD hi hw hrun, fun e rest hq => ?_⟩
  · obtain ⟨t, hst, he, -⟩ := exists_runningEdge_of_dutifulHost hD
    exact ⟨t, hst, by simp [he.q, entered, ht]⟩
  · obtain ⟨t, hrun, hDt, hqt, -⟩ := head_kept (n := e.wait) hD (e := e) (by simp [hq]) (by omega)
    obtain ⟨hv, hbus⟩ := rspValid_of_ready_head hDt.running hDt.rst_low hqt (Nat.sub_self _)
    exact ⟨t, hrun, hv, hbus⟩

/-- Settles O36: the head is kept until the host takes it, and then it is what transfers. -/
theorem oldestResponseIsDelivered : Obligations.OldestResponseIsDelivered := by
  intro s e rest hD hq n t hn hrun hready hpause
  obtain ⟨t', hrun', hDt, hqt, hdel⟩ := head_kept hD (e := e) (by simp [hq]) hpause
  obtain rfl : t = t' := by simpa [hrun] using hrun'
  obtain ⟨rest', hqt'⟩ := exists_tail_of_head hqt
  obtain ⟨u, hst, he, -⟩ := exists_runningEdge_of_dutifulHost hDt
  have htr : rspTransfers t = true :=
    (rspTransfers_head hDt.running hDt.rst_low hqt').2 ⟨Nat.sub_eq_zero_of_le hn, hready⟩
  exact ⟨hdel, u, runEdges_snoc hrun hst, by rw [he.deliveredIn_eq, emitted_of_transfer htr hqt', hdel]⟩

/-! ## An offered request -/

/-- While req_ready is held low, nothing is accepted, an offered request is held, and `Q` does not grow. -/
theorem stall_passes {k : Nat} : ∀ {s : State}, DutifulHost s → s.readyIn = k → s.q.length < Config.depth →
    ∃ t, runEdges k s = .next t ∧ DutifulHost t ∧ t.readyIn = 0 ∧ t.q.length < Config.depth ∧
      acceptedIn t.trace = acceptedIn s.trace ∧
      (s.pins.reqValid = true → t.pins.reqValid = true ∧ t.pins.request = s.pins.request) := by
  induction k with
  | zero => exact fun {s} hD hk hroom => ⟨s, rfl, hD, hk, hroom, rfl, fun hv => ⟨hv, rfl⟩⟩
  | succ k ih =>
    intro s hD hk hroom
    have hno : reqTransfers s = false := by
      rw [Bool.eq_false_iff, ne_eq, reqTransfers_iff]
      rintro ⟨-, -, -, hready, -⟩
      omega
    obtain ⟨u, hst, hDu, hku, hqu, -, haccu, hheldu⟩ := step_of_dutifulHost hD
    have hlen : u.q.length ≤ s.q.length := by simpa [hqu, hno] using responseSide_length_le s
    obtain ⟨t, hrun, hDt, hkt, hqt, hacct, hheldt⟩ := ih hDu (by simp [hku, hk]) (by omega)
    refine ⟨t, (runEdges_of_next k hst).trans hrun, hDt, hkt, hqt, by simp [hacct, haccu, hno], fun hv => ?_⟩
    obtain ⟨hvu, hreq⟩ := hheldu hv hno
    rw [← hreq]
    exact hheldt hvu

/-- Settles O37: after `readyIn` edges there is room and no stall, so req_ready = 1 and the held request transfers. -/
theorem offeredRequestIsAccepted : Obligations.OfferedRequestIsAccepted := by
  intro s hD hroom
  obtain ⟨t, hrun, hDt, hkt, hqt, hacc, hheld⟩ := stall_passes hD rfl hroom
  refine ⟨⟨t, hrun, (reqReady_running hDt.running).2 ⟨hDt.rst_low, hkt, hqt⟩⟩, fun hv => ?_⟩
  obtain ⟨hvt, hreq⟩ := hheld hv
  have htr : reqTransfers t = true := (reqTransfers_iff t).2 ⟨hDt.running, hDt.rst_low, hvt, hkt, hqt⟩
  obtain ⟨u, hst, he, -⟩ := exists_runningEdge_of_dutifulHost hDt
  exact ⟨u, runEdges_snoc hrun hst, by rw [he.acceptedIn_eq, taken_of_transfer htr, hacc, hreq]⟩

end Sys2Proof.Machine
end

section
/-! Scripts of requests against the transaction-level model (R31, R60). -/

namespace Sys2Proof.Machine

/-! ## The request of one line -/

theorem value_literal {sofar : List Response} {v w : Bus} (h : (ScriptOperand.literal v).value sofar = some w) :
    w = v := (Option.some.inj h).symm

/-- An operand that names a line takes the whole RES of that line's response, counted from 1. -/
theorem value_result {sofar : List Response} {k : Nat} {v : Bus}
    (h : (ScriptOperand.result k).value sofar = some v) :
    1 ≤ k ∧ ∃ e, sofar[k - 1]? = some e ∧ v = e.res := by
  cases k with
  | zero => cases h
  | succ n =>
    obtain ⟨e, he, rfl⟩ := Option.map_eq_some_iff.1 h
    exact ⟨by omega, e, he, rfl⟩

/-- The request of a line has its command word and the values of its operands. -/
theorem request_eq_some {sofar : List Response} {l : ScriptLine} {r : Request} (h : l.request sofar = some r) :
    r.cmd = l.cmd ∧ l.a.value sofar = some r.a ∧ l.b.value sofar = some r.b := by
  unfold ScriptLine.request at h
  split at h
  · next a b ha hb =>
    obtain rfl := Option.some.inj h
    exact ⟨rfl, ha, hb⟩
  · cases h

/-! ## The requests of a script -/

/-- A script that ends issues one request a line, each from the responses before it. -/
theorem runScript_requests {out : List Response} {ls : List ScriptLine} :
    ∀ {sofar : List Response}, runScript sofar ls = some out →
      ∃ rs : List Request, rs.length = ls.length ∧ out = sofar ++ rs.map execResponse ∧
        ∀ (i : Nat) (l : ScriptLine) (r : Request), ls[i]? = some l → rs[i]? = some r →
          l.request (sofar ++ (rs.take i).map execResponse) = some r := by
  induction ls with
  | nil =>
    intro sofar h
    obtain rfl : sofar = out := by simpa [runScript] using h
    exact ⟨[], by simp⟩
  | cons l₀ ls ih =>
    intro sofar h
    cases hreq : l₀.request sofar with
    | none => simp [runScript, hreq] at h
    | some r₀ =>
      simp only [runScript, hreq] at h
      obtain ⟨rs, hlen, hout, hline⟩ := ih h
      refine ⟨r₀ :: rs, by simp [hlen], by simp [hout], fun i l r hl hr => ?_⟩
      cases i with
      | zero =>
        obtain rfl : l₀ = l := by simpa using hl
        obtain rfl : r₀ = r := by simpa using hr
        simpa using hreq
      | succ i => simpa using hline i l r hl hr

/-- Accepting and delivering each request in turn emits EXEC of each and leaves `Q` empty. -/
theorem transactAll_acceptDeliver {d : Nat} (hd : 0 < d) (rs : List Request) :
    transactAll d (rs.flatMap fun r => [.accept r, .deliver]) [] = some (rs.map execResponse, []) := by
  induction rs with
  | nil => rfl
  | cons r rs ih =>
    have hone : transactAll d [.accept r, .deliver] [] = some ([execResponse r], []) := by
      simp [transactAll, transact, emits, hd]
    exact transactAll_append hone ih

/-- Settles O60, by induction on the script's lines and on the requests they issue. -/
theorem scriptMatchesTransactions : Obligations.ScriptMatchesTransactions := by
  intro sofar out ls h
  obtain ⟨rs, hlen, hout, hline⟩ := runScript_requests h
  refine ⟨rs, hlen, hout, fun i l r hl hr => ?_, transactAll_acceptDeliver (Nat.succ_pos _) rs⟩
  have hreq := hline i l r hl hr
  obtain ⟨hcmd, ha, hb⟩ := request_eq_some hreq
  refine ⟨hreq, hcmd, fun v hv => ?_, fun v hv => ?_, fun k hk => ?_, fun k hk => ?_⟩
  · exact value_literal (hv ▸ ha)
  · exact value_literal (hv ▸ hb)
  · exact value_result (hk ▸ ha)
  · exact value_result (hk ▸ hb)

end Sys2Proof.Machine
end

section
/-! A command word placed to run next (20_memory.md R41; notes entry 8). -/

namespace Sys2Proof.Machine

/-! ## The state with a command word placed -/

@[simp] theorem withFetchWord_a (s : State) (n w : Nat) : (s.withFetchWord n w).pins.a = s.pins.a := rfl

@[simp] theorem withFetchWord_b (s : State) (n w : Nat) : (s.withFetchWord n w).pins.b = s.pins.b := rfl

@[simp] theorem withFetchWord_cmd (s : State) (n w : Nat) :
    (s.withFetchWord n w).pins.cmd = BitVec.ofNat 8 w := rfl

@[simp] theorem withFetchWord_q (s : State) (n w : Nat) :
    (s.withFetchWord n w).q = if s.q.length < Config.depth then s.q else [] := rfl

/-- A full `Q` is emptied, so the placed word always finds room. -/
theorem withFetchWord_length_lt (s : State) (n w : Nat) : (s.withFetchWord n w).q.length < Config.depth := by
  rw [withFetchWord_q]
  split
  · assumption
  · exact Nat.succ_pos _

/-- Nothing is left to be held, and the placed request is driven. -/
theorem brokenDuty_withFetchWord (s : State) (n w : Nat) : brokenDuty (s.withFetchWord n w) = none := by
  simp [brokenDuty_none_iff, State.withFetchWord, offerCommand]

theorem reqTransfers_withFetchWord (s : State) (n w : Nat) : reqTransfers (s.withFetchWord n w) = true :=
  (reqTransfers_iff _).2 ⟨rfl, rfl, rfl, rfl, withFetchWord_length_lt s n w⟩

/-- Settles O38: the placed word transfers at the very next edge, and that edge runs the command it decodes to (O18). -/
theorem fetchWordRunsNext : Obligations.FetchWordRunsNext := by
  intro s w i _ hdec
  obtain ⟨-, t, hexec, hstep, -⟩ := stepRunsDecodedCommand (s.withFetchWord 8 w) i
    (brokenDuty_withFetchWord s 8 w) (reqTransfers_withFetchWord s 8 w) (by simpa using hdec)
  exact ⟨withFetchWord_a s 8 w, withFetchWord_b s 8 w, t, hexec, hstep⟩

end Sys2Proof.Machine
end

section
/-! The decoder and the encoder of command words, inverse to each other, and the classes of illegal words by their
patterns (R44 to R53, R89, R90). -/

namespace Sys2Proof.Machine

/-! ## The four fields of a word, as numbers (R44) -/

theorem cmdFields_op_toNat (cmd : Cmd) : (cmdFields cmd).op.toNat = cmd.toNat / 16 := by
  rw [cmdFields, BitVec.extractLsb'_toNat, Nat.shiftRight_eq_div_pow]
  omega

theorem cmdFields_rsv_toNat (cmd : Cmd) : (cmdFields cmd).rsv.toNat = cmd.toNat / 4 % 4 := by
  rw [cmdFields, BitVec.extractLsb'_toNat, Nat.shiftRight_eq_div_pow]

theorem cmdFields_f_toNat (cmd : Cmd) : (cmdFields cmd).f.toNat = cmd.toNat / 2 % 2 := by
  simp only [cmdFields, ← BitVec.testBit_toNat, Nat.toNat_testBit, Nat.pow_one]

theorem cmdFields_w_toNat (cmd : Cmd) : (cmdFields cmd).w.toNat = cmd.toNat % 2 := by
  simp only [cmdFields, ← BitVec.testBit_toNat, Nat.toNat_testBit, Nat.pow_zero, Nat.div_one]

theorem packFields_toNat (c : CmdFields) :
    (packFields c).toNat = 16 * c.op.toNat + 4 * c.rsv.toNat + 2 * c.f.toNat + c.w.toNat := by
  simp only [packFields, BitVec.toNat_append, BitVec.toNat_ofBool]
  rw [← Nat.shiftLeft_add_eq_or_of_lt c.w.toNat_lt, ← Nat.shiftLeft_add_eq_or_of_lt c.f.toNat_lt,
    ← Nat.shiftLeft_add_eq_or_of_lt c.rsv.isLt]
  simp only [Nat.shiftLeft_eq]
  omega

theorem cmdFields_ext {c d : CmdFields} (hop : c.op.toNat = d.op.toNat) (hrsv : c.rsv.toNat = d.rsv.toNat)
    (hf : c.f.toNat = d.f.toNat) (hw : c.w.toNat = d.w.toNat) : c = d := by
  have hbool : ∀ x y : Bool, x.toNat = y.toNat → x = y := by decide
  cases c
  cases d
  exact (CmdFields.mk.injEq ..).mpr
    ⟨BitVec.eq_of_toNat_eq hop, BitVec.eq_of_toNat_eq hrsv, hbool _ _ hf, hbool _ _ hw⟩

@[simp] theorem cmdFields_packFields (c : CmdFields) : cmdFields (packFields c) = c := by
  have hrsv := c.rsv.isLt
  have hf := c.f.toNat_lt
  have hw := c.w.toNat_lt
  apply cmdFields_ext
  · rw [cmdFields_op_toNat, packFields_toNat]; omega
  · rw [cmdFields_rsv_toNat, packFields_toNat]; omega
  · rw [cmdFields_f_toNat, packFields_toNat]; omega
  · rw [cmdFields_w_toNat, packFields_toNat]; omega

@[simp] theorem packFields_cmdFields (cmd : Cmd) : packFields (cmdFields cmd) = cmd := by
  apply BitVec.eq_of_toNat_eq
  rw [packFields_toNat, cmdFields_op_toNat, cmdFields_rsv_toNat, cmdFields_f_toNat, cmdFields_w_toNat]
  omega

@[simp] theorem cmdFields_encode (i : Instr) : cmdFields (encode i) = i.fields := cmdFields_packFields _

/-! ## The opcode map (R48) -/

theorem illegalClass_fields (i : Instr) : i.fields.illegalClass = none := by
  cases i <;> decide

theorem wellFormed_instr (i : Instr) : i.wellFormed = true := by
  simp [Instr.wellFormed, CmdFields.wellFormed, illegalClass_fields]

theorem selectCommand_fields (i : Instr) : selectCommand i.fields.op.toNat i.fields.f i.fields.w = some i := by
  cases i <;> rfl

/-- The table of all fields: those that the check lets through are the fields of the row that the opcode map selects. -/
theorem selectCommand_of_legal : ∀ (op : BitVec 4) (rsv : BitVec 2) (f w : Bool),
    (CmdFields.mk op rsv f w).illegalClass = none →
      (selectCommand op.toNat f w).map Instr.fields = some (CmdFields.mk op rsv f w) := by
  decide

theorem exists_fields_of_legal {c : CmdFields} (h : c.illegalClass = none) : ∃ i : Instr, i.fields = c := by
  obtain ⟨i, -, hi⟩ := Option.map_eq_some_iff.1 (selectCommand_of_legal c.op c.rsv c.f c.w h)
  exact ⟨i, hi⟩

/-! ## Decoding -/

theorem decode_of_illegal {cmd : Cmd} {k : IllegalClass} (h : (cmdFields cmd).illegalClass = some k) :
    decode cmd = .error k := by
  simp [decode, h]

theorem decode_encode (i : Instr) : decode (encode i) = .ok i := by
  simp [decode, illegalClass_fields, selectCommand_fields]

theorem exists_encode_of_legal {cmd : Cmd} (h : (cmdFields cmd).illegalClass = none) : ∃ i, encode i = cmd := by
  obtain ⟨i, hi⟩ := exists_fields_of_legal h
  exact ⟨i, by rw [encode, hi, packFields_cmdFields]⟩

/-- Everything a command word can be: the word of a command, or illegal. -/
theorem decode_cases (cmd : Cmd) :
    (∃ i, encode i = cmd ∧ (cmdFields cmd).illegalClass = none ∧ decode cmd = .ok i) ∨
      ∃ k, (cmdFields cmd).illegalClass = some k ∧ decode cmd = .error k := by
  cases h : (cmdFields cmd).illegalClass with
  | none =>
    obtain ⟨i, rfl⟩ := exists_encode_of_legal h
    exact .inl ⟨i, rfl, rfl, decode_encode i⟩
  | some k => exact .inr ⟨k, rfl, decode_of_illegal h⟩

theorem decode_eq_ok_iff (cmd : Cmd) (i : Instr) : decode cmd = .ok i ↔ encode i = cmd := by
  constructor
  · intro h
    rcases decode_cases cmd with ⟨j, hj, -, hdec⟩ | ⟨k, -, hdec⟩ <;> rw [hdec] at h <;> cases h
    exact hj
  · rintro rfl
    exact decode_encode i

theorem decode_eq_error_iff (cmd : Cmd) (k : IllegalClass) :
    decode cmd = .error k ↔ (cmdFields cmd).illegalClass = some k := by
  rcases decode_cases cmd with ⟨i, -, hcls, hdec⟩ | ⟨k', hcls, hdec⟩ <;> simp [hcls, hdec]

/-- Settles O1: the word's fields are those of the command's row, which the opcode map selects. -/
theorem encodeThenDecode : Obligations.EncodeThenDecode := by
  intro i _
  refine ⟨decode_encode i, ?_⟩
  simp [decodeTableWord, decode_encode, (encode i).isLt]

/-- Settles O2: `encode` is the inverse of `decode` on the words that decode. -/
theorem decodeThenEncode : Obligations.DecodeThenEncode :=
  fun cmd i h => ⟨(decode_eq_ok_iff cmd i).1 h, wellFormed_instr i⟩

theorem instr_mem_all (i : Instr) : i ∈ Instr.all := by cases i <;> decide

theorem exists_decode_iff (cmd : Cmd) : (∃ i, decode cmd = .ok i) ↔ cmd ∈ Instr.all.map encode := by
  simp [decode_eq_ok_iff, instr_mem_all]

/-- Settles O3: the 23 words are the encodings of the 23 commands, in the opcode map's order. -/
theorem legalCommandWords : Obligations.LegalCommandWords :=
  ⟨⟨decode_encode .add8, decode_encode .add16, decode_encode .sub8, decode_encode .sub16, decode_encode .mulw,
    decode_encode .f2x8f32, decode_encode .f2x16f32, decode_encode .f2x8f64, decode_encode .f2x16f64,
    decode_encode .x2f8f32, decode_encode .x2f16f32, decode_encode .x2f8f64, decode_encode .x2f16f64,
    decode_encode .widen, decode_encode .narrow, decode_encode .inv8, decode_encode .inv16, decode_encode .min8,
    decode_encode .min16, decode_encode .max8, decode_encode .max16, decode_encode .cmp8, decode_encode .cmp16⟩,
    exists_decode_iff⟩

/-! ## Illegal words (R52, R89, R90) -/

/-- The pattern of each class of illegal words, on the word as a number (R52). -/
def HasPattern (n : Nat) : IllegalClass → Prop
  | .reservedOpZero => n / 16 = 0x0
  | .reservedOpHigh => 0xC ≤ n / 16
  | .reservedBits => 0x1 ≤ n / 16 ∧ n / 16 ≤ 0xB ∧ n / 4 % 4 ≠ 0
  | .wrongForm => n / 4 % 4 = 0 ∧ ((n / 2 % 2 = 1 ∧ n / 16 ∈ [0x1, 0x2, 0x3, 0x6, 0x7, 0x8, 0x9, 0xA, 0xB]) ∨
      (n % 2 = 1 ∧ n / 16 ∈ [0x3, 0x6, 0x7]))

/-- The decoder's checks, taken in their order, are the four patterns. -/
theorem illegalClass_eq_some_iff (cmd : Cmd) (k : IllegalClass) :
    (cmdFields cmd).illegalClass = some k ↔ HasPattern cmd.toNat k := by
  have hop : cmd.toNat / 16 < 16 := by omega
  simp only [CmdFields.illegalClass, BitVec.le_def, ← BitVec.toNat_inj, ne_eq, ← Bool.toNat_eq_one, cmdFields_op_toNat,
    cmdFields_rsv_toNat, cmdFields_f_toNat, cmdFields_w_toNat, BitVec.ofNat_eq_ofNat, BitVec.reduceToNat]
  cases k
  all_goals
    simp only [HasPattern, List.mem_cons, List.not_mem_nil, or_false]
    generalize cmd.toNat / 16 = op at hop ⊢
    split_ifs <;> simp <;> omega

theorem decode_ofNat_eq_error_iff {n : Nat} (hn : n < 256) (k : IllegalClass) :
    decode (BitVec.ofNat 8 n) = .error k ↔ HasPattern n k := by
  rw [decode_eq_error_iff, illegalClass_eq_some_iff, BitVec.toNat_ofNat, Nat.mod_eq_of_lt hn]

theorem acceptRequest_of_illegal {s : State} {k : IllegalClass} (h : decode s.pins.cmd = .error k) :
    acceptRequest s = .next (raiseIllegalCommand s) := by
  simp [acceptRequest, h]

/-- Settles O4: the patterns for each class, the counts by running the check on the 256 words, and the one branch of
`acceptRequest` for a word that does not decode. -/
theorem illegalWordClasses : Obligations.IllegalWordClasses := by
  refine ⟨fun n hn => ?_, by decide +kernel, fun s k h => acceptRequest_of_illegal h⟩
  exact ⟨decode_ofNat_eq_error_iff hn _, decode_ofNat_eq_error_iff hn _, decode_ofNat_eq_error_iff hn _,
    decode_ofNat_eq_error_iff hn _⟩

end Sys2Proof.Machine
end

section
/-! Which bits of the operand buses a command's result depends on (R49). -/

namespace Sys2Proof.Machine

theorem fracOperand_eq (w : FracWidth) (v : Bus) : fracOperand w v = v.toNat % 2 ^ w.bits := by
  cases w
  · exact fracOperand_w8 v
  · exact fracOperand_w16 v

theorem maxRaw_eq (w : FracWidth) : w.maxRaw = 2 ^ w.bits - 1 := by cases w <;> rfl

/-- How many bits of a bus a float operand is read from. -/
def floatBits (f : FloatFmt) : Nat := 1 + f.expBits + f.fracBits

theorem floatOperand_eq (f : FloatFmt) (v : Bus) : floatOperand f v = asDatum f (v.toNat % 2 ^ floatBits f) := by
  cases f <;> rw [floatOperand, slice_eq, Nat.pow_zero, Nat.div_one] <;> rfl

theorem fracOperand_congr {w : FracWidth} {v v' : Bus} (h : v.toNat ≡ v'.toNat [MOD 2 ^ w.bits]) :
    fracOperand w v = fracOperand w v' := by
  rw [fracOperand_eq, fracOperand_eq, h]

theorem floatOperand_congr {f : FloatFmt} {v v' : Bus} (h : v.toNat ≡ v'.toNat [MOD 2 ^ floatBits f]) :
    floatOperand f v = floatOperand f v' := by
  rw [floatOperand_eq, floatOperand_eq, h]

theorem f2xResult_congr (w : FracWidth) {f : FloatFmt} {a a' : Bus}
    (h : a.toNat ≡ a'.toNat [MOD 2 ^ floatBits f]) : f2xResult w f a = f2xResult w f a' := by
  rw [f2xResult, f2xResult, floatOperand_congr h]

/-- A result depends only on the bits of A and B that its command reads. -/
theorem commandResult_congr (i : Instr) {a a' b b' : Bus} (ha : a.toNat ≡ a'.toNat [MOD 2 ^ i.bitsOfA])
    (hb : b.toNat ≡ b'.toNat [MOD 2 ^ i.bitsOfB]) : commandResult i a b = commandResult i a' b' := by
  cases i with
  | f2x8f32 | f2x16f32 => exact f2xResult_congr (f := .f32) _ ha
  | f2x8f64 | f2x16f64 => exact f2xResult_congr (f := .f64) _ ha
  | x2f8f32 | x2f8f64 | inv8 | widen =>
    simp only [commandResult, x2fResult, invResult, widenResult, fracOperand_congr (w := .w8) ha]
  | x2f16f32 | x2f16f64 | inv16 | narrow =>
    simp only [commandResult, x2fResult, invResult, narrowResult, fracOperand_congr (w := .w16) ha]
  | add8 | sub8 | min8 | max8 | cmp8 | mulw =>
    simp only [commandResult, addResult, subResult, minResult, maxResult, cmpResult, mulwResult,
      fracOperand_congr (w := .w8) ha, fracOperand_congr (w := .w8) hb]
  | add16 | sub16 | min16 | max16 | cmp16 =>
    simp only [commandResult, addResult, subResult, minResult, maxResult, cmpResult,
      fracOperand_congr (w := .w16) ha, fracOperand_congr (w := .w16) hb]

/-- Settles O16: on both pairs of operands the command's result is the same number. -/
theorem unreadOperandBitsIgnored : Obligations.UnreadOperandBitsIgnored := by
  intro i s a b ha hb
  exact ⟨commandResult i s.pins.a s.pins.b, answers_of_result rfl, answers_of_result (commandResult_congr i ha hb)⟩

end Sys2Proof.Machine
end

section
/-! How large the result of a command can be (R50, R87). -/

namespace Sys2Proof.Machine

/-! ## The bit pattern of a float result -/

/-- A finite magnitude is at most the largest of the format. -/
def InRange (f : FloatFmt) : Datum → Prop
  | .nan => True
  | .inf _ => True
  | .fin _ mag => mag ≤ maxFinite f

theorem inRange_rne (f : FloatFmt) (neg : Bool) (num : Nat) {den : Nat} (hden : 0 < den) :
    InRange f (rne f neg num den) := by
  rcases Nat.lt_or_ge num (maxFinite f * den) with hlt | hge
  · rw [rne_of_lt hlt]
    exact rneMag_le_maxFinite f hden hlt
  · rw [rne_of_le hge]
    trivial

theorem inRange_fmul (f : FloatFmt) (x y : Datum) : InRange f (fmul f x y) := by
  match x, y with
  | .nan, y => rw [fmul_nan_left]; trivial
  | x, .nan => rw [fmul_nan_right]; trivial
  | .inf s, .inf t => rw [fmul_inf_inf]; trivial
  | .inf s, .fin t 0 => trivial
  | .fin t 0, .inf s => trivial
  | .inf s, .fin t (m + 1) => rw [fmul_inf_fin f s t m.succ_pos]; trivial
  | .fin t (m + 1), .inf s => rw [fmul_fin_inf f s t m.succ_pos]; trivial
  | .fin s m, .fin t n => exact inRange_rne f _ _ (unitsPerOne_pos f)

theorem lastBit_le_of_le_maxFinite {f : FloatFmt} {mag : Nat} (h : mag ≤ maxFinite f) :
    lastBit f mag ≤ topExp f := by
  rcases h.lt_or_eq with hlt | rfl
  · simpa using lastBit_le_topExp f Nat.one_pos (hlt.trans_eq (Nat.mul_one _).symm)
  · have hpow := Nat.two_pow_pos f.fracBits
    rw [maxFinite_eq, lastBit_of_significand] <;> rw [Nat.pow_succ] <;> omega

/-- A sign bit, an exponent field of at most 2 ^ expBits - k, and a rest below k in that field's place. -/
theorem signBit_add_lt (f : FloatFmt) (neg : Bool) {e k x : Nat} (he : e + k ≤ 2 ^ f.expBits)
    (hx : x < k * 2 ^ f.fracBits) : signBit f neg + e * 2 ^ f.fracBits + x < 2 ^ floatBits f := by
  have hbits : 2 ^ floatBits f = 2 * 2 ^ (f.expBits + f.fracBits) := by
    rw [floatBits, Nat.add_assoc, Nat.pow_add, Nat.pow_one]
  have hsign : signBit f neg ≤ 2 ^ (f.expBits + f.fracBits) := by
    cases neg <;> simp [signBit, Nat.add_comm]
  have hfields : e * 2 ^ f.fracBits + x < 2 ^ (f.expBits + f.fracBits) := by
    calc e * 2 ^ f.fracBits + x < (e + k) * 2 ^ f.fracBits := by rw [Nat.add_mul]; omega
      _ ≤ 2 ^ (f.expBits + f.fracBits) := by rw [Nat.pow_add]; exact Nat.mul_le_mul_right _ he
  omega

theorem datumBits_lt {f : FloatFmt} {d : Datum} (h : InRange f d) : datumBits f d < 2 ^ floatBits f := by
  have hexp := pow_expBits f
  have hfrac : 1 < 2 ^ f.fracBits := by cases f <;> decide
  have hones : 2 ^ f.expBits - 1 + 1 ≤ 2 ^ f.expBits := by omega
  cases d with
  | nan =>
    have hpayload := Nat.mod_lt Config.nanPayload (Nat.sub_pos_of_lt hfrac)
    simp only [datumBits, pow2_eq, expAllOnes_eq]
    exact signBit_add_lt f _ hones (by omega)
  | inf neg =>
    simp only [datumBits, pow2_eq, expAllOnes_eq]
    exact signBit_add_lt f neg hones (x := 0) (by omega)
  | fin neg mag =>
    have hlast := lastBit_le_of_le_maxFinite h
    have hemax := emax_pos f
    simp only [datumBits, pow2_eq]
    refine signBit_add_lt f neg (k := 2) (by rw [topExp] at hlast; omega) ?_
    rw [Nat.div_lt_iff_lt_mul (Nat.two_pow_pos _), ← Nat.pow_succ', ← Nat.pow_add]
    exact lt_pow_lastBit f mag

/-! ## The result of each family of commands -/

theorem lt_pow_bits_of_le_maxRaw {w : FracWidth} {r : Nat} (h : r ≤ w.maxRaw) : r < 2 ^ w.bits := by
  have hpos := Nat.two_pow_pos w.bits
  rw [maxRaw_eq] at h
  omega

theorem satTrunc_le (f : FloatFmt) (d : Datum) (m : Nat) : satTrunc f d m ≤ m := by
  match d with
  | .nan => exact Nat.zero_le m
  | .inf true => exact Nat.zero_le m
  | .inf false => exact le_rfl
  | .fin true mag => exact Nat.zero_le m
  | .fin false mag => exact Nat.min_le_right _ _

section
variable (w : FracWidth) (a b : Bus)

theorem addResult_le : addResult w a b ≤ w.maxRaw := Nat.min_le_right _ _

theorem subResult_le : subResult w a b ≤ w.maxRaw := (Nat.sub_le _ _).trans (fracOperand_le_maxRaw w a)

theorem invResult_le : invResult w a ≤ w.maxRaw := Nat.sub_le _ _

theorem minResult_le : minResult w a b ≤ w.maxRaw := (Nat.min_le_left _ _).trans (fracOperand_le_maxRaw w a)

theorem maxResult_le : maxResult w a b ≤ w.maxRaw :=
  Nat.max_le.2 ⟨fracOperand_le_maxRaw w a, fracOperand_le_maxRaw w b⟩

theorem cmpResult_lt : cmpResult w a b < 2 ^ 3 := by
  unfold cmpResult compareOutcome
  split_ifs <;> omega

theorem f2xResult_le (f : FloatFmt) : f2xResult w f a ≤ w.maxRaw := satTrunc_le f _ _

theorem x2fResult_lt (f : FloatFmt) : x2fResult w f a < 2 ^ floatBits f := datumBits_lt (inRange_fmul f _ _)

theorem mulwResult_le : mulwResult a b ≤ FracWidth.w16.maxRaw := satTrunc_le .f64 _ _

theorem widenResult_le : widenResult a ≤ FracWidth.w16.maxRaw :=
  Nat.mul_le_mul_right 257 (fracOperand_le_maxRaw .w8 a)

theorem narrowResult_le : narrowResult a ≤ FracWidth.w8.maxRaw :=
  Nat.div_le_div_right (c := 257) (fracOperand_le_maxRaw .w16 a)

end

theorem commandResult_lt (i : Instr) (a b : Bus) : commandResult i a b < 2 ^ i.resultBits := by
  cases i with
  | add8 | add16 => exact lt_pow_bits_of_le_maxRaw (addResult_le _ a b)
  | sub8 | sub16 => exact lt_pow_bits_of_le_maxRaw (subResult_le _ a b)
  | mulw => exact lt_pow_bits_of_le_maxRaw (mulwResult_le a b)
  | f2x8f32 | f2x16f32 | f2x8f64 | f2x16f64 => exact lt_pow_bits_of_le_maxRaw (f2xResult_le _ a _)
  | x2f8f32 | x2f16f32 => exact x2fResult_lt _ a .f32
  | x2f8f64 | x2f16f64 => exact x2fResult_lt _ a .f64
  | widen => exact lt_pow_bits_of_le_maxRaw (widenResult_le a)
  | narrow => exact lt_pow_bits_of_le_maxRaw (narrowResult_le a)
  | inv8 | inv16 => exact lt_pow_bits_of_le_maxRaw (invResult_le _ a)
  | min8 | min16 => exact lt_pow_bits_of_le_maxRaw (minResult_le _ a b)
  | max8 | max16 => exact lt_pow_bits_of_le_maxRaw (maxResult_le _ a b)
  | cmp8 | cmp16 => exact cmpResult_lt _ a b

/-- Settles O17: `exec` answers the command's result, which every family of commands keeps within its field. -/
theorem resultFitsItsField : Obligations.ResultFitsItsField :=
  fun i s => ⟨commandResult i s.pins.a s.pins.b, commandResult_lt i s.pins.a s.pins.b, answers_of_result rfl⟩

end Sys2Proof.Machine
end

section
/-! The host's pseudo-operations (R55, R56). -/

namespace Sys2Proof.Machine

/-- The response to a command's word carries the command's result. -/
theorem execResponse_encode (i : Instr) (a b : Bus) :
    execResponse { cmd := encode i, a := a, b := b } = { res := zext64 (commandResult i a b), err := false } := by
  simp [execResponse, decode_encode]

theorem fracOperand_zext64 {w : FracWidth} {r : Nat} (h : r ≤ w.maxRaw) : fracOperand w (zext64 r) = r := by
  have hlt := lt_pow_bits_of_le_maxRaw h
  have hbits : 2 ^ w.bits ≤ 2 ^ 64 := Nat.pow_le_pow_right (by decide) (by cases w <;> decide)
  rw [fracOperand_eq, zext64_toNat (hlt.trans_le hbits), Nat.mod_eq_of_lt hlt]

theorem writeBack_addip (w : FracWidth) (x b : Bus) : (InPlace.addip w).writeBack x b = addResult w x b := by
  have hcmd : commandResult (InPlace.addip w).command x b = addResult w x b := by cases w <;> rfl
  rw [InPlace.writeBack, execResponse_encode, hcmd]
  exact fracOperand_zext64 (addResult_le w x b)

theorem writeBack_subip (w : FracWidth) (x b : Bus) : (InPlace.subip w).writeBack x b = subResult w x b := by
  have hcmd : commandResult (InPlace.subip w).command x b = subResult w x b := by cases w <;> rfl
  rw [InPlace.writeBack, execResponse_encode, hcmd]
  exact fracOperand_zext64 (subResult_le w x b)

theorem command_addip (w : FracWidth) : (InPlace.addip w).command = addAt w := by cases w <;> rfl

theorem command_subip (w : FracWidth) : (InPlace.subip w).command = subAt w := by cases w <;> rfl

/-- Settles O59: the host reads back the low W bits of RES, which hold the whole saturated sum or difference. -/
theorem pseudoOperations : Obligations.PseudoOperations := by
  refine ⟨fun w k => ⟨rfl, maxRaw_eq w, rfl⟩, fun w x b => ⟨command_addip w, command_subip w, ?_, ?_⟩⟩
  · rw [writeBack_addip, addResult, fracOperand_eq, fracOperand_eq]
  · rw [writeBack_subip, subResult, fracOperand_eq, fracOperand_eq]

end Sys2Proof.Machine
end

section
/-! What F2X and X2F answer, as functions of the operand's datum or raw value (R61, R66). -/

namespace Sys2Proof.Machine

/-- F2X.W.F of a datum. -/
def f2xOf (w : FracWidth) (f : FloatFmt) (d : Datum) : Nat := satTrunc f (fmul f d (maxFloat f w)) w.maxRaw

theorem f2xResult_eq (w : FracWidth) (f : FloatFmt) (a : Bus) : f2xResult w f a = f2xOf w f (floatOperand f a) := rfl

theorem commandResult_f2xAt (w : FracWidth) (f : FloatFmt) (a b : Bus) :
    commandResult (f2xAt w f) a b = f2xResult w f a := by
  cases w <;> cases f <;> rfl

theorem commandResult_x2fAt (w : FracWidth) (f : FloatFmt) (a b : Bus) :
    commandResult (x2fAt w f) a b = x2fResult w f a := by
  cases w <;> cases f <;> rfl

theorem commandResult_cmpAt (w : FracWidth) (a b : Bus) : commandResult (cmpAt w) a b = cmpResult w a b := by
  cases w <;> rfl

/-- Settles O8: each F2X command answers its result, whose operand is the low bits of A. -/
theorem f2xAnswersScaledTruncation : Obligations.F2xAnswersScaledTruncation := by
  refine ⟨rfl, rfl, rfl, rfl, fun s => ?_⟩
  have h32 : floatOperand .f32 s.pins.a = asDatum .f32 (s.pins.a.toNat % 2 ^ 32) := floatOperand_eq .f32 _
  have h64 : floatOperand .f64 s.pins.a = asDatum .f64 s.pins.a.toNat :=
    (floatOperand_eq .f64 _).trans (congrArg _ (Nat.mod_eq_of_lt s.pins.a.isLt))
  have h (w : FracWidth) (f : FloatFmt) {d : Datum} (hd : floatOperand f s.pins.a = d) :
      Answers (f2xAt w f) s (f2xOf w f d) :=
    answers_of_result (by rw [commandResult_f2xAt, f2xResult_eq, hd])
  exact ⟨h .w8 .f32 h32, h .w16 .f32 h32, h .w8 .f64 h64, h .w16 .f64 h64⟩

/-- Settles O9: each X2F command answers the pattern of its datum, made of the low bits of A. -/
theorem x2fAnswersReciprocalProduct : Obligations.X2fAnswersReciprocalProduct := by
  refine ⟨rfl, rfl, rfl, rfl, fun s => ?_⟩
  have h (w : FracWidth) (f : FloatFmt) {a : Nat} (ha : fracOperand w s.pins.a = a) :
      Answers (x2fAt w f) s (datumBits f (x2fDatum w f a)) :=
    answers_of_result (by rw [commandResult_x2fAt, x2fResult, ha])
  have h8 := fracOperand_w8 s.pins.a
  have h16 := fracOperand_w16 s.pins.a
  exact ⟨h .w8 .f32 h8, h .w16 .f32 h16, h .w8 .f64 h8, h .w16 .f64 h16⟩

/-! ## RES as a number -/

/-- Every result fits the result bus, so RES is the result itself. -/
theorem resultOf_eq (i : Instr) (a b : Nat) :
    resultOf i a b = commandResult i (BitVec.ofNat 64 a) (BitVec.ofNat 64 b) := by
  have hbits : 2 ^ i.resultBits ≤ 2 ^ 64 := Nat.pow_le_pow_right (by decide) (by cases i <;> decide)
  rw [resultOf, execResponse_encode]
  exact zext64_toNat ((commandResult_lt i _ _).trans_le hbits)

theorem resultOf_f2xAt (w : FracWidth) (f : FloatFmt) (a : Bus) (b : Nat) :
    resultOf (f2xAt w f) a.toNat b = f2xOf w f (floatOperand f a) := by
  rw [resultOf_eq, commandResult_f2xAt, f2xResult_eq, BitVec.ofNat_toNat, BitVec.setWidth_eq]

theorem resultOf_x2fAt {w : FracWidth} (f : FloatFmt) {a : Nat} (ha : a ≤ w.maxRaw) (b : Nat) :
    resultOf (x2fAt w f) a b = datumBits f (x2fDatum w f a) := by
  rw [resultOf_eq, commandResult_x2fAt, x2fResult, ← zext64, fracOperand_zext64 ha]

theorem resultOf_cmpAt {w : FracWidth} {a b : Nat} (ha : a ≤ w.maxRaw) (hb : b ≤ w.maxRaw) :
    resultOf (cmpAt w) a b = compareOutcome a b := by
  rw [resultOf_eq, commandResult_cmpAt, cmpResult, ← zext64, ← zext64, fracOperand_zext64 ha, fracOperand_zext64 hb]

end Sys2Proof.Machine
end

section
/-! F2X on each kind of datum, and its laws (R62 to R65): scaling a finite datum by MAX(W) is one rounding of an integer
number of units, and that rounding is monotone and leaves what the format represents. -/

namespace Sys2Proof.Machine

/-! ## Rounding is monotone (R13) -/

/-- The larger of two numbers is as near only from their middle on. -/
theorem add_le_two_mul_of_nearer {n x y : Int} (hlt : y < x) (h : |n - x| ≤ |n - y|) : x + y ≤ 2 * n := by
  have hsq := sq_le_sq.2 h
  nlinarith

/-- The smaller of two numbers is as near only up to their middle. -/
theorem two_mul_le_add_of_nearer {n x y : Int} (hlt : y < x) (h : |n - y| ≤ |n - x|) : 2 * n ≤ x + y := by
  have hsq := sq_le_sq.2 h
  nlinarith

theorem rneMag_mono (f : FloatFmt) {num num' : Nat} (h : num ≤ num') (hlt : num' < maxFinite f) :
    rneMag f num 1 ≤ rneMag f num' 1 := by
  have hrep := representable_rneMag f (num := num) Nat.one_pos (by omega)
  have hrep' := representable_rneMag f (num := num') Nat.one_pos (by omega)
  have hnear := (rneMag_nearest f (num := num) Nat.one_pos hrep').1
  have hnear' := (rneMag_nearest f (num := num') Nat.one_pos hrep).1
  rw [Nat.cast_one, mul_one, mul_one] at hnear hnear'
  by_contra hgt
  have hlt : (rneMag f num' 1 : Int) < rneMag f num 1 := by exact_mod_cast Nat.not_le.1 hgt
  have hmiddle := add_le_two_mul_of_nearer hlt hnear
  have hmiddle' := two_mul_le_add_of_nearer hlt hnear'
  obtain rfl : num = num' := by omega
  exact hgt le_rfl

theorem rneMag_le_of_representable {f : FloatFmt} {num m : Nat} (hm : Representable f m) (hlt : m < maxFinite f)
    (h : num ≤ m) : rneMag f num 1 ≤ m :=
  (rneMag_mono f h hlt).trans_eq (rneMag_of_representable hm)

theorem le_rneMag_of_representable {f : FloatFmt} {num m : Nat} (hm : Representable f m) (hlt : num < maxFinite f)
    (h : m ≤ num) : m ≤ rneMag f num 1 :=
  (rneMag_of_representable hm).symm.trans_le (rneMag_mono f h hlt)

@[simp] theorem rneMag_zero (f : FloatFmt) : rneMag f 0 1 = 0 :=
  rneMag_of_representable ⟨Nat.zero_le _, 0, 0, Nat.two_pow_pos _, rfl⟩

/-! ## Scaling by MAX(W) -/

theorem maxRaw_le (w : FracWidth) : w.maxRaw ≤ 65535 := by cases w <;> decide

theorem maxFloat_eq (f : FloatFmt) (w : FracWidth) : maxFloat f w = .fin false (w.maxRaw * unitsPerOne f) :=
  uintToFloat_eq f (maxRaw_le w)

theorem fmul_maxFloat (f : FloatFmt) (w : FracWidth) (neg : Bool) (mag : Nat) :
    fmul f (.fin neg mag) (maxFloat f w) = rne f neg (mag * w.maxRaw) 1 := by
  have h := rne_mul_right f neg (mag * w.maxRaw) 1 (unitsPerOne_pos f)
  rw [maxFloat_eq, fmul_fin, Bool.bne_false, ← Nat.mul_assoc, ← h, Nat.one_mul]

/-- Up to 1.0 the product does not overflow. -/
theorem mul_maxRaw_lt_maxFinite {f : FloatFmt} (w : FracWidth) {mag : Nat} (h : mag ≤ unitsPerOne f) :
    mag * w.maxRaw < maxFinite f := by
  rw [Nat.mul_comm]
  exact (Nat.mul_le_mul_left _ h).trans_lt (mul_unitsPerOne_lt_maxFinite f (maxRaw_le w))

/-! ## F2X on each kind of datum (R61) -/

section
variable (w : FracWidth) (f : FloatFmt)

theorem scaled_pos : 0 < w.maxRaw * unitsPerOne f := Nat.mul_pos (maxRaw_pos w) (unitsPerOne_pos f)

@[simp] theorem f2xOf_inf_neg : f2xOf w f (.inf true) = 0 := by
  rw [f2xOf, maxFloat_eq, fmul_inf_fin f _ _ (scaled_pos w f)]
  rfl

@[simp] theorem f2xOf_inf_pos : f2xOf w f (.inf false) = w.maxRaw := by
  rw [f2xOf, maxFloat_eq, fmul_inf_fin f _ _ (scaled_pos w f)]
  rfl

@[simp] theorem f2xOf_fin_neg (mag : Nat) : f2xOf w f (.fin true mag) = 0 := by
  rw [f2xOf, fmul_maxFloat, rne]
  split <;> rfl

theorem f2xOf_le (d : Datum) : f2xOf w f d ≤ w.maxRaw := satTrunc_le f _ _

variable {f} {mag : Nat}

/-- From 0.0 to 1.0: the rounded product, truncated. -/
theorem f2xOf_unit (h : mag ≤ unitsPerOne f) :
    f2xOf w f (.fin false mag) = rneMag f (mag * w.maxRaw) 1 / unitsPerOne f := by
  have hone := representable_mul_unitsPerOne f (maxRaw_le w)
  have hround : rneMag f (mag * w.maxRaw) 1 ≤ w.maxRaw * unitsPerOne f :=
    rneMag_le_of_representable hone (mul_unitsPerOne_lt_maxFinite f (maxRaw_le w))
      (by rw [Nat.mul_comm]; exact Nat.mul_le_mul_left _ h)
  have hlt := mul_maxRaw_lt_maxFinite w h
  rw [f2xOf, fmul_maxFloat, rne_of_lt (by omega), satTrunc_fin_pos]
  exact Nat.min_eq_left (Nat.div_le_of_le_mul (hround.trans_eq (Nat.mul_comm _ _)))

/-- From 1.0 on: MAX(W), whether or not the product overflows. -/
theorem f2xOf_of_one_le (h : unitsPerOne f ≤ mag) : f2xOf w f (.fin false mag) = w.maxRaw := by
  have hone := representable_mul_unitsPerOne f (maxRaw_le w)
  have hscaled : w.maxRaw * unitsPerOne f ≤ mag * w.maxRaw := by rw [Nat.mul_comm]; exact Nat.mul_le_mul_right _ h
  rw [f2xOf, fmul_maxFloat]
  rcases Nat.lt_or_ge (mag * w.maxRaw) (maxFinite f) with hlt | hge
  · rw [rne_of_lt (by omega), satTrunc_fin_pos]
    exact Nat.min_eq_right
      ((Nat.le_div_iff_mul_le (unitsPerOne_pos f)).2 (le_rneMag_of_representable hone hlt hscaled))
  · rw [rne_of_le (by omega), satTrunc_inf_pos]

theorem f2xOf_mono_mag {mag' : Nat} (h : mag ≤ mag') : f2xOf w f (.fin false mag) ≤ f2xOf w f (.fin false mag') := by
  rcases Nat.le_total (unitsPerOne f) mag' with hge | hle
  · rw [f2xOf_of_one_le w hge]
    exact f2xOf_le w f _
  · rw [f2xOf_unit w (h.trans hle), f2xOf_unit w hle]
    exact Nat.div_le_div_right (rneMag_mono f (Nat.mul_le_mul_right _ h) (mul_maxRaw_lt_maxFinite w hle))

@[simp] theorem f2xOf_zero (neg : Bool) : f2xOf w f (.fin neg 0) = 0 := by
  cases neg with
  | true => exact f2xOf_fin_neg w f 0
  | false =>
    rw [f2xOf_unit w (Nat.zero_le _), Nat.zero_mul, rneMag_zero, Nat.zero_div]

end

/-! ## The laws (R62 to R65) -/

/-- On the non-negative magnitudes the order of the values is the order of the magnitudes. -/
theorem signedValue_false_le_iff (f : FloatFmt) (mag mag' : Nat) :
    signedValue f false mag ≤ signedValue f false mag' ↔ mag ≤ mag' := by
  have hu : (0 : ℚ) < unitsPerOne f := by exact_mod_cast unitsPerOne_pos f
  rw [signedValue_false, signedValue_false, div_le_div_iff_of_pos_right hu, Nat.cast_le]

theorem signedValue_unitsPerOne (f : FloatFmt) : signedValue f false (unitsPerOne f) = 1 := by
  have hu : (unitsPerOne f : ℚ) ≠ 0 := by exact_mod_cast (unitsPerOne_pos f).ne'
  rw [signedValue_false, div_self hu]

theorem one_le_signedValue_iff (f : FloatFmt) (mag : Nat) : 1 ≤ signedValue f false mag ↔ unitsPerOne f ≤ mag := by
  rw [← signedValue_unitsPerOne f, signedValue_false_le_iff]

theorem signedValue_le_one_iff (f : FloatFmt) (mag : Nat) : signedValue f false mag ≤ 1 ↔ mag ≤ unitsPerOne f := by
  rw [← signedValue_unitsPerOne f, signedValue_false_le_iff]

/-- A negative zero is the only datum of negative sign whose value is not negative. -/
theorem mag_eq_zero_of_nonneg {f : FloatFmt} {mag : Nat} (h : 0 ≤ signedValue f true mag) : mag = 0 := by
  have hle : signedValue f false mag ≤ signedValue f false 0 := by
    rw [signedValue_true, ← signedValue_false] at h
    simpa [signedValue_false f 0] using h
  exact Nat.le_zero.1 ((signedValue_false_le_iff f mag 0).1 hle)

/-- A finite datum is worth what its magnitude is worth where its value is not negative. -/
theorem f2xOf_fin_of_nonneg (w : FracWidth) {f : FloatFmt} {neg : Bool} {mag : Nat}
    (h : 0 ≤ signedValue f neg mag) :
    f2xOf w f (.fin neg mag) = f2xOf w f (.fin false mag) ∧ signedValue f neg mag = signedValue f false mag := by
  cases neg with
  | false => exact ⟨rfl, rfl⟩
  | true =>
    obtain rfl := mag_eq_zero_of_nonneg h
    exact ⟨by simp, by simp [signedValue]⟩

/-- The exact product, rounded as a rational, is the integer number of units that `fmul` rounds. -/
theorem rneOf_signedValue_mul (w : FracWidth) {f : FloatFmt} {mag : Nat} (h : mag ≤ unitsPerOne f) :
    rneOf f (signedValue f false mag * w.maxRaw) = .fin false (rneMag f (mag * w.maxRaw) 1) := by
  have hprod : signedValue f false mag * w.maxRaw = ((mag * w.maxRaw : Nat) : ℚ) / unitsPerOne f := by
    rw [signedValue_false, Nat.cast_mul, div_mul_eq_mul_div]
  have hrne := rne_mul_right f false (mag * w.maxRaw) 1 (unitsPerOne_pos f)
  rw [Nat.one_mul] at hrne
  rw [hprod, rneOf_natCast_div f _ (unitsPerOne_pos f), hrne,
    rne_of_lt (by simpa using mul_maxRaw_lt_maxFinite w h)]

theorem f2xOf_fin_of_neg (w : FracWidth) {f : FloatFmt} {neg : Bool} {mag : Nat} (h : signedValue f neg mag < 0) :
    f2xOf w f (.fin neg mag) = 0 := by
  cases neg with
  | false => exact absurd h (not_lt.2 (signedValue_false_nonneg f mag))
  | true => exact f2xOf_fin_neg w f mag

/-- Settles O47: below 0 the sign decides, from 1.0 on the product reaches MAX(W), and between them the product is the
rounded rational. -/
theorem f2xClampingLaw : Obligations.F2xClampingLaw := by
  intro w f a x hx
  rw [resultOf_f2xAt]
  match floatOperand f a, hx with
  | .inf true, hx =>
    cases hx
    exact ⟨fun _ => f2xOf_inf_neg w f, fun h => absurd h (by simp), fun q hq => absurd hq (by simp)⟩
  | .inf false, hx =>
    cases hx
    exact ⟨fun h => absurd h (by simp), fun _ => f2xOf_inf_pos w f,
      fun q hq => absurd (WithBot.coe_injective hq) (by simp)⟩
  | .fin neg mag, hx =>
    cases hx
    refine ⟨fun h => f2xOf_fin_of_neg w (by exact_mod_cast h), fun h => ?_, fun q hq hzero hone => ?_⟩
    · have hlt : 1 < signedValue f neg mag := by exact_mod_cast h
      obtain ⟨hf2x, hval⟩ := f2xOf_fin_of_nonneg w (zero_le_one.trans hlt.le)
      rw [hf2x]
      exact f2xOf_of_one_le w ((one_le_signedValue_iff f mag).1 (hval ▸ hlt.le))
    · obtain rfl : signedValue f neg mag = q := by exact_mod_cast hq
      obtain ⟨hf2x, hval⟩ := f2xOf_fin_of_nonneg w hzero
      rw [hval] at hone ⊢
      have hmag := (signedValue_le_one_iff f mag).1 hone
      refine ⟨_, rneOf_signedValue_mul w hmag, ?_, f2xOf_le w f _⟩
      rw [hf2x, f2xOf_unit w hmag, floor_signedValue_false]

/-- Settles O48: the clamp changes only negative data, which give 0 either way, and those from 1.0 on, which give
MAX(W) either way. -/
theorem f2xClampOrdersAgree : Obligations.F2xClampOrdersAgree := by
  intro w f a
  rw [resultOf_f2xAt, ← f2xOf]
  match floatOperand f a with
  | .nan => rfl
  | .inf true => simp [clampUnit]
  | .inf false => simp [clampUnit, f2xOf_of_one_le]
  | .fin true mag => simp [clampUnit]
  | .fin false mag =>
    rcases Nat.le_total mag (unitsPerOne f) with hle | hge
    · simp [clampUnit, hle]
    · simp [clampUnit, hge, f2xOf_of_one_le]

theorem unitsPerOne_lt_maxFinite (f : FloatFmt) : unitsPerOne f < maxFinite f := by
  simpa using mul_unitsPerOne_lt_maxFinite f (n := 1) (by decide)

/-- A power of two below 1.0 is a magnitude of the format. -/
theorem representable_two_pow {f : FloatFmt} {e : Nat} (h : 2 ^ e ≤ unitsPerOne f) : Representable f (2 ^ e) :=
  ⟨h.trans (unitsPerOne_lt_maxFinite f).le, 1, e, Nat.one_lt_two_pow (Nat.succ_ne_zero _), (Nat.one_mul _).symm⟩

/-- A subnormal scaled by MAX(W) stays far below 1.0. -/
theorem f2xOf_of_lt_normal (w : FracWidth) {f : FloatFmt} {mag : Nat} (neg : Bool) (h : mag < 2 ^ f.fracBits) :
    f2xOf w f (.fin neg mag) = 0 := by
  cases neg with
  | true => exact f2xOf_fin_neg w f mag
  | false =>
    have hexp : f.fracBits + 16 < unitExp f := by cases f <;> decide
    have hone : 2 ^ (f.fracBits + 16) < unitsPerOne f := by
      rw [unitsPerOne_eq]
      exact Nat.pow_lt_pow_right (by decide) hexp
    have hscaled : mag * w.maxRaw ≤ 2 ^ (f.fracBits + 16) := by
      rw [Nat.pow_add]
      exact Nat.mul_le_mul h.le ((maxRaw_le w).trans (by decide))
    have hround := rneMag_le_of_representable (representable_two_pow hone.le)
      (hone.trans (unitsPerOne_lt_maxFinite f)) hscaled
    have hmag : mag ≤ unitsPerOne f := by
      rw [Nat.pow_add] at hone
      omega
    rw [f2xOf_unit w hmag, Nat.div_eq_of_lt (hround.trans_lt hone)]

/-- Settles O49: a subnormal and the zero it is flushed to both give 0. -/
theorem f2xIgnoresSubnormalHandling : Obligations.F2xIgnoresSubnormalHandling := by
  intro w f a
  rw [resultOf_f2xAt, ← f2xOf]
  match floatOperand f a with
  | .nan => simp [Datum.isSubnormal, flushSubnormal]
  | .inf neg => simp [Datum.isSubnormal, flushSubnormal]
  | .fin neg mag =>
    have hzero (h : (Datum.fin neg mag).isSubnormal f = true) : f2xOf w f (.fin neg mag) = 0 :=
      f2xOf_of_lt_normal w neg (by simpa [Datum.isSubnormal] using (of_decide_eq_true h).2)
    refine ⟨hzero, ?_⟩
    rw [flushSubnormal]
    split
    · rename_i h
      rw [hzero h, f2xOf_zero]
    · rfl

/-- F2X is monotone in the value of its datum. -/
theorem f2xOf_mono (w : FracWidth) {f : FloatFmt} {d d' : Datum} {x x' : WithBot (WithTop ℚ)}
    (hx : extReal f d = some x) (hx' : extReal f d' = some x') (hle : x ≤ x') : f2xOf w f d ≤ f2xOf w f d' := by
  match d, d', hx, hx' with
  | .inf true, d', _, _ => exact (f2xOf_inf_neg w f).trans_le (Nat.zero_le _)
  | d, .inf false, _, _ => exact (f2xOf_le w f d).trans_eq (f2xOf_inf_pos w f).symm
  | .inf false, .inf true, hx, hx' | .inf false, .fin _ _, hx, hx' | .fin _ _, .inf true, hx, hx' =>
    cases hx
    cases hx'
    simp at hle
  | .fin neg mag, .fin neg' mag', hx, hx' =>
    cases hx
    cases hx'
    have hval : signedValue f neg mag ≤ signedValue f neg' mag' := by exact_mod_cast hle
    rcases lt_or_ge (signedValue f neg mag) 0 with hneg | hzero
    · exact (f2xOf_fin_of_neg w hneg).trans_le (Nat.zero_le _)
    · obtain ⟨hf2x, heq⟩ := f2xOf_fin_of_nonneg w hzero
      obtain ⟨hf2x', heq'⟩ := f2xOf_fin_of_nonneg w (hzero.trans hval)
      rw [heq, heq', signedValue_false_le_iff] at hval
      rw [hf2x, hf2x']
      exact f2xOf_mono_mag w hval

/-- Settles O50: F2X of the operands' data, which is monotone in their values. -/
theorem f2xMonotone : Obligations.F2xMonotone := by
  intro w f a a' x x' hx hx' hle
  rw [resultOf_f2xAt, resultOf_f2xAt]
  exact f2xOf_mono w hx hx' hle

end Sys2Proof.Machine
end

section
/-! X2F as an integer computation, and its endpoints, range and order (R67, R68). RCP_F(W) is an integer significand at a
power of two, and one product by it is rounded by at most half a spacing, which is far less than the significand. -/

namespace Sys2Proof.Machine

/-! ## The reciprocal (R17) -/

/-- The significand of RCP_F(W), with fracBits + 1 bits. -/
def rcpSig : FracWidth → FloatFmt → Nat
  | .w8, .f32 => 0x808081
  | .w16, .f32 => 0x800080
  | .w8, .f64 => 0x10101010101010
  | .w16, .f64 => 0x10001000100010

/-- The place of that significand's last bit, in powers of two of the unit. -/
def rcpExp (w : FracWidth) (f : FloatFmt) : Nat := unitExp f - (f.fracBits + w.bits)

section
variable (w : FracWidth) (f : FloatFmt)

theorem reciprocal_eq : reciprocal f w = .fin false (rcpSig w f * 2 ^ rcpExp w f) := by
  rw [← pow2_eq]
  cases w <;> cases f <;> decide

theorem two_pow_le_rcpSig : 2 ^ f.fracBits ≤ rcpSig w f := by cases w <;> cases f <;> decide

/-- The significand times MAX(W) is 1.0 in its place, but for the rounding of the reciprocal. -/
theorem rcpSig_mul_maxRaw_le : rcpSig w f * w.maxRaw ≤ 2 ^ (f.fracBits + w.bits) + 127 := by
  cases w <;> cases f <;> decide

theorem two_pow_bits_lt : 2 ^ w.bits < 2 ^ f.fracBits := by cases w <;> cases f <;> decide

theorem two_pow_mul_two_pow_rcpExp : 2 ^ (f.fracBits + w.bits) * 2 ^ rcpExp w f = unitsPerOne f := by
  have hle : f.fracBits + w.bits ≤ unitExp f := by cases w <;> cases f <;> decide
  rw [unitsPerOne_eq, rcpExp, ← Nat.pow_add, Nat.add_sub_cancel' hle]

variable {w}

/-- No product of a raw value by the significand reaches 2.0. -/
theorem mul_rcpSig_lt {a : Nat} (ha : a ≤ w.maxRaw) : a * rcpSig w f < 2 ^ (f.fracBits + 1 + w.bits) := by
  have hle : a * rcpSig w f ≤ rcpSig w f * w.maxRaw := by rw [Nat.mul_comm]; exact Nat.mul_le_mul_left _ ha
  have hpow : 127 < 2 ^ (f.fracBits + w.bits) := by cases w <;> cases f <;> decide
  have hmul := rcpSig_mul_maxRaw_le w f
  rw [Nat.add_right_comm, Nat.pow_succ]
  omega

end

/-! ## Rounding an integer (R13) -/

theorem rneMag_one_eq (f : FloatFmt) (n : Nat) :
    rneMag f n 1 = roundHalfEven n (2 ^ lastBit f n) * 2 ^ lastBit f n := by
  rw [rneMag_eq, roundedSig, Nat.div_one, Nat.one_mul]

/-- The rounded number is within half a spacing. -/
theorem rneMag_near (f : FloatFmt) (n : Nat) :
    2 * rneMag f n 1 ≤ 2 * n + 2 ^ lastBit f n ∧ 2 * n ≤ 2 * rneMag f n 1 + 2 ^ lastBit f n := by
  rw [rneMag_one_eq, Nat.mul_comm (roundHalfEven _ _)]
  exact roundHalfEven_near n (Nat.two_pow_pos _)

theorem lastBit_le_of_lt {f : FloatFmt} {n k : Nat} (h : n < 2 ^ (f.fracBits + 1 + k)) : lastBit f n ≤ k := by
  rw [lastBit, floorLog2_eq]
  rcases Nat.eq_zero_or_pos n with rfl | hpos
  · simp
  · have := (Nat.log2_lt hpos.ne').2 h
    omega

theorem lastBit_mul_two_pow {f : FloatFmt} {n : Nat} (e : Nat) (h : 2 ^ f.fracBits ≤ n) :
    lastBit f (n * 2 ^ e) = lastBit f n + e := by
  have hpos : n ≠ 0 := ((Nat.two_pow_pos _).trans_le h).ne'
  have hlog : f.fracBits ≤ n.log2 := (Nat.le_log2 hpos).2 h
  have hshift : (n * 2 ^ e).log2 = n.log2 + e := by
    rw [Nat.log2_eq_iff (Nat.mul_pos (Nat.pos_of_ne_zero hpos) (Nat.two_pow_pos e)).ne', Nat.add_right_comm,
      Nat.pow_add, Nat.pow_add 2 (n.log2 + 1)]
    exact ⟨Nat.mul_le_mul_right _ (Nat.log2_self_le hpos),
      Nat.mul_lt_mul_of_pos_right Nat.lt_log2_self (Nat.two_pow_pos e)⟩
  rw [lastBit, lastBit, floorLog2_eq, floorLog2_eq, hshift]
  omega

/-- From the first normal magnitude on, rounding does not depend on the place. -/
theorem rneMag_mul_two_pow {f : FloatFmt} {n : Nat} (e : Nat) (h : 2 ^ f.fracBits ≤ n) :
    rneMag f (n * 2 ^ e) 1 = rneMag f n 1 * 2 ^ e := by
  rw [rneMag_one_eq, rneMag_one_eq, lastBit_mul_two_pow e h, Nat.pow_add,
    roundHalfEven_mul_right _ _ (Nat.two_pow_pos e), Nat.mul_assoc]

/-! ## X2F as an integer computation (R66) -/

/-- The magnitude X2F.W.F makes of a raw value. -/
def x2fMag (w : FracWidth) (f : FloatFmt) (a : Nat) : Nat := rneMag f (a * rcpSig w f) 1 * 2 ^ rcpExp w f

theorem two_pow_le_mul_rcpSig (w : FracWidth) (f : FloatFmt) {a : Nat} (ha : 0 < a) :
    2 ^ f.fracBits ≤ a * rcpSig w f :=
  (two_pow_le_rcpSig w f).trans (Nat.le_mul_of_pos_left _ ha)

theorem x2fMag_eq_rneMag (w : FracWidth) (f : FloatFmt) (a : Nat) :
    x2fMag w f a = rneMag f (a * rcpSig w f * 2 ^ rcpExp w f) 1 := by
  rcases Nat.eq_zero_or_pos a with rfl | ha
  · simp [x2fMag]
  · rw [x2fMag, rneMag_mul_two_pow _ (two_pow_le_mul_rcpSig w f ha)]

section
variable {w : FracWidth} (f : FloatFmt) {a : Nat} (ha : a ≤ w.maxRaw)
include ha

theorem mul_reciprocal_lt_maxFinite : a * rcpSig w f * 2 ^ rcpExp w f < maxFinite f := by
  have htwo := mul_unitsPerOne_lt_maxFinite f (n := 2) (by decide)
  calc a * rcpSig w f * 2 ^ rcpExp w f
      ≤ 2 ^ (f.fracBits + 1 + w.bits) * 2 ^ rcpExp w f := Nat.mul_le_mul_right _ (mul_rcpSig_lt f ha).le
    _ = 2 * unitsPerOne f := by
        rw [← two_pow_mul_two_pow_rcpExp w f, Nat.add_right_comm, Nat.pow_succ]; ring
    _ < maxFinite f := htwo

theorem x2fDatum_eq : x2fDatum w f a = .fin false (x2fMag w f a) := by
  have hrne := rne_mul_right f false (a * rcpSig w f * 2 ^ rcpExp w f) 1 (unitsPerOne_pos f)
  have hnum : a * unitsPerOne f * (rcpSig w f * 2 ^ rcpExp w f) =
      a * rcpSig w f * 2 ^ rcpExp w f * unitsPerOne f := by ring
  rw [Nat.one_mul] at hrne
  rw [x2fDatum, uintToFloat_eq f (ha.trans (maxRaw_le w)), reciprocal_eq, fmul_fin, Bool.bne_false, hnum, hrne,
    rne_of_lt (by simpa using mul_reciprocal_lt_maxFinite f ha), x2fMag_eq_rneMag]

theorem representable_x2fMag : Representable f (x2fMag w f a) := by
  rw [x2fMag_eq_rneMag]
  exact representable_rneMag f Nat.one_pos (by simpa using mul_reciprocal_lt_maxFinite f ha)

end

/-! ## A datum written is read back (R12) -/

section
variable {f : FloatFmt} {e frac : Nat} (he : e < 2 ^ f.expBits) (hfrac : frac < 2 ^ f.fracBits)
include he hfrac

theorem pattern_lt : e * 2 ^ f.fracBits + frac < 2 ^ (f.expBits + f.fracBits) := by
  calc e * 2 ^ f.fracBits + frac < (e + 1) * 2 ^ f.fracBits := by rw [Nat.succ_mul]; omega
    _ ≤ 2 ^ (f.expBits + f.fracBits) := by rw [Nat.pow_add]; exact Nat.mul_le_mul_right _ he

theorem asDatum_of_fields : asDatum f (e * 2 ^ f.fracBits + frac) =
    if e = 2 ^ f.expBits - 1 then (if frac = 0 then .inf false else .nan)
    else if e = 0 then .fin false frac
    else .fin false ((2 ^ f.fracBits + frac) * 2 ^ (e - 1)) := by
  have hlt := pattern_lt he hfrac
  have hneg : patternNeg f (e * 2 ^ f.fracBits + frac) = false := by simpa [patternNeg] using hlt
  have hexp : patternExp f (e * 2 ^ f.fracBits + frac) = e := by
    rw [patternExp, Nat.mul_comm, Nat.mul_add_div (Nat.two_pow_pos _), Nat.div_eq_of_lt hfrac, Nat.add_zero,
      Nat.mod_eq_of_lt he]
  have hmod : patternFrac f (e * 2 ^ f.fracBits + frac) = frac := by
    rw [patternFrac, Nat.mul_comm, Nat.mul_add_mod, Nat.mod_eq_of_lt hfrac]
  have hbits : 2 ^ (f.expBits + f.fracBits) ≤ 2 ^ (1 + f.expBits + f.fracBits) :=
    Nat.pow_le_pow_right (by decide) (by omega)
  rw [asDatum_eq (hlt.trans_le hbits), hneg, hexp, hmod]

end

/-- A magnitude of the format from 2 ^ fracBits on is a full significand at the place of its last bit. -/
theorem Representable.exists_significand {f : FloatFmt} {mag : Nat} (h : Representable f mag)
    (hnormal : 2 ^ f.fracBits ≤ mag) :
    ∃ frac, frac < 2 ^ f.fracBits ∧ mag = (2 ^ f.fracBits + frac) * 2 ^ lastBit f mag := by
  have hlow : 2 ^ (f.fracBits + lastBit f mag) ≤ mag := by
    by_cases hzero : lastBit f mag = 0
    · rwa [hzero]
    · exact pow_lastBit_le hzero
  obtain ⟨k, hk⟩ := h.pow_dvd hlow
  have hhigh := lt_pow_lastBit f mag
  generalize lastBit f mag = e at *
  subst hk
  rw [Nat.mul_comm, Nat.pow_add] at hlow
  rw [Nat.mul_comm, Nat.pow_add 2 (f.fracBits + 1)] at hhigh
  have hlo := Nat.le_of_mul_le_mul_right hlow (Nat.two_pow_pos e)
  have hhi := Nat.lt_of_mul_lt_mul_right hhigh
  rw [Nat.pow_succ] at hhi
  exact ⟨k - 2 ^ f.fracBits, by omega, by rw [Nat.add_sub_cancel' hlo, Nat.mul_comm]⟩

theorem asDatum_datumBits {f : FloatFmt} {mag : Nat} (h : Representable f mag) :
    asDatum f (datumBits f (.fin false mag)) = .fin false mag := by
  have hexp := pow_expBits f
  have hemax := emax_pos f
  rcases Nat.lt_or_ge mag (2 ^ f.fracBits) with hsub | hnormal
  · have hread := asDatum_of_fields (f := f) (e := 0) (by omega) hsub
    rw [if_neg (by omega), if_pos rfl, Nat.zero_mul, Nat.zero_add] at hread
    simpa [datumBits_of_lt false hsub, signBit] using hread
  · have hlast := lastBit_le_of_le_maxFinite h.1
    rw [topExp] at hlast
    obtain ⟨frac, hfrac, hmag⟩ := h.exists_significand hnormal
    have hread := asDatum_of_fields (f := f) (e := lastBit f mag + 1) (by omega) hfrac
    rw [if_neg (by omega), if_neg (by omega), Nat.add_sub_cancel, ← hmag] at hread
    have hbits := datumBits_normal false (lastBit f mag) hfrac
    rw [← hmag] at hbits
    rw [hbits]
    simpa [signBit] using hread

theorem asDatum_resultOf_x2fAt {w : FracWidth} (f : FloatFmt) {a : Nat} (ha : a ≤ w.maxRaw) (b : Nat) :
    asDatum f (resultOf (x2fAt w f) a b) = .fin false (x2fMag w f a) := by
  rw [resultOf_x2fAt f ha, x2fDatum_eq f ha, asDatum_datumBits (representable_x2fMag f ha)]

/-! ## Order (R68) -/

/-- A step of one raw value is more than two roundings. -/
theorem x2fMag_lt {w : FracWidth} (f : FloatFmt) {a a' : Nat} (h : a < a') (ha' : a' ≤ w.maxRaw) :
    x2fMag w f a < x2fMag w f a' := by
  have hspacing {n : Nat} (hn : n ≤ w.maxRaw) : 2 ^ lastBit f (n * rcpSig w f) ≤ 2 ^ w.bits :=
    Nat.pow_le_pow_right (by decide) (lastBit_le_of_lt (mul_rcpSig_lt f hn))
  have hlow := (rneMag_near f (a * rcpSig w f)).1
  have hhigh := (rneMag_near f (a' * rcpSig w f)).2
  have hstep : a * rcpSig w f + rcpSig w f ≤ a' * rcpSig w f := by
    rw [← Nat.succ_mul]; exact Nat.mul_le_mul_right _ h
  have hsig := two_pow_le_rcpSig w f
  have hbits := two_pow_bits_lt w f
  have hs := hspacing (h.le.trans ha')
  have hs' := hspacing ha'
  exact Nat.mul_lt_mul_of_pos_right (by omega) (Nat.two_pow_pos _)

theorem x2fMag_lt_iff {w : FracWidth} (f : FloatFmt) {a a' : Nat} (ha : a ≤ w.maxRaw) (ha' : a' ≤ w.maxRaw) :
    x2fMag w f a < x2fMag w f a' ↔ a < a' := by
  refine ⟨fun h => ?_, fun h => x2fMag_lt f h ha'⟩
  by_contra hge
  rcases (Nat.not_lt.1 hge).lt_or_eq with hlt | rfl
  · exact absurd (x2fMag_lt f hlt ha) (by omega)
  · exact lt_irrefl _ h

/-- The value X2F.W.F makes of a raw value, among the extended rationals. -/
def x2fValue (w : FracWidth) (f : FloatFmt) (a : Nat) : WithBot (WithTop ℚ) :=
  ((signedValue f false (x2fMag w f a) : ℚ) : WithTop ℚ)

theorem extReal_resultOf_x2fAt {w : FracWidth} (f : FloatFmt) {a : Nat} (ha : a ≤ w.maxRaw) (b : Nat) :
    extReal f (asDatum f (resultOf (x2fAt w f) a b)) = some (x2fValue w f a) := by
  rw [asDatum_resultOf_x2fAt f ha]
  rfl

theorem x2fValue_lt_iff {w : FracWidth} (f : FloatFmt) {a a' : Nat} (ha : a ≤ w.maxRaw) (ha' : a' ≤ w.maxRaw) :
    x2fValue w f a < x2fValue w f a' ↔ a < a' := by
  rw [x2fValue, x2fValue, WithBot.coe_lt_coe, WithTop.coe_lt_coe,
    lt_iff_lt_of_le_iff_le (signedValue_false_le_iff f (x2fMag w f a') (x2fMag w f a)), x2fMag_lt_iff f ha ha']

theorem x2fValue_inj {w : FracWidth} (f : FloatFmt) {a a' : Nat} (ha : a ≤ w.maxRaw) (ha' : a' ≤ w.maxRaw) :
    x2fValue w f a = x2fValue w f a' ↔ a = a' := by
  refine ⟨fun h => ?_, fun h => by rw [h]⟩
  have hlt := x2fValue_lt_iff f ha ha'
  have hgt := x2fValue_lt_iff f ha' ha
  simp only [h, lt_irrefl, false_iff] at hlt hgt
  omega

theorem compareOutcome_eq (a b : Nat) : compareOutcome a b = if a < b then 1 else if a = b then 2 else 4 := by
  unfold compareOutcome
  split_ifs <;> omega

/-- Settles O52: the value X2F makes of a raw value is strictly increasing, and CMP compares the raws. -/
theorem x2fStrictlyIncreasing : Obligations.X2fStrictlyIncreasing := by
  intro w f a a' ha ha'
  refine ⟨_, _, extReal_resultOf_x2fAt f ha 0, extReal_resultOf_x2fAt f ha' 0, (x2fValue_lt_iff f ha ha').2,
    fun heq => ?_, ?_⟩
  · have hval := extReal_resultOf_x2fAt f ha 0
    rw [heq, extReal_resultOf_x2fAt f ha' 0, Option.some.injEq] at hval
    exact ((x2fValue_inj f ha' ha).1 hval).symm
  · simp only [resultOf_cmpAt ha ha', compareOutcome_eq, x2fValue_lt_iff f ha ha', x2fValue_inj f ha ha']

/-! ## Endpoints and range (R67) -/

@[simp] theorem x2fMag_zero (w : FracWidth) (f : FloatFmt) : x2fMag w f 0 = 0 := by simp [x2fMag]

/-- X2F of 1 is the reciprocal itself. -/
theorem x2fMag_one (w : FracWidth) (f : FloatFmt) : x2fMag w f 1 = rcpSig w f * 2 ^ rcpExp w f := by
  have hround : rneMag f (1 * rcpSig w f) 1 = rcpSig w f := by cases w <;> cases f <;> decide
  rw [x2fMag, hround]

/-- The second rounding makes up for the first at MAX(W). -/
theorem x2fMag_maxRaw (w : FracWidth) (f : FloatFmt) : x2fMag w f w.maxRaw = unitsPerOne f := by
  have hround : rneMag f (w.maxRaw * rcpSig w f) 1 = 2 ^ (f.fracBits + w.bits) := by cases w <;> cases f <;> decide
  rw [x2fMag, hround, two_pow_mul_two_pow_rcpExp]

theorem rcp16_le_x2fMag {w : FracWidth} (f : FloatFmt) {a : Nat} (hpos : 1 ≤ a) (ha : a ≤ w.maxRaw) :
    rcpSig .w16 f * 2 ^ rcpExp .w16 f ≤ x2fMag w f a := by
  have hone : rcpSig .w16 f * 2 ^ rcpExp .w16 f ≤ x2fMag w f 1 := by
    rw [x2fMag_one, ← pow2_eq, ← pow2_eq]
    cases w <;> cases f <;> decide
  rcases hpos.lt_or_eq with hlt | rfl
  · exact hone.trans (x2fMag_lt f hlt ha).le
  · exact hone

theorem datumBits_one (f : FloatFmt) :
    datumBits f (.fin false (unitsPerOne f)) = (match f with | .f32 => 0x3F800000 | .f64 => 0x3FF0000000000000) := by
  cases f <;> decide

/-- Settles O51: X2F increases from the reciprocal at 1, which is normal, to 1.0 at MAX(W). -/
theorem x2fEndpointsAndRange : Obligations.X2fEndpointsAndRange := by
  intro w f
  have hzero := Nat.zero_le w.maxRaw
  refine ⟨?_, ?_, ?_, ?_, _, reciprocal_eq .w16 f, fun a hpos ha => ⟨_, asDatum_resultOf_x2fAt f ha 0, ?_, ?_, ?_⟩⟩
  · rw [resultOf_x2fAt f hzero, x2fDatum_eq f hzero, x2fMag_zero, datumBits_of_lt false (Nat.two_pow_pos _)]
    rfl
  · rw [resultOf_x2fAt f le_rfl, x2fDatum_eq f le_rfl, x2fMag_maxRaw]
    exact datumBits_one f
  · rw [extReal_resultOf_x2fAt f hzero, x2fValue, x2fMag_zero, signedValue_false, Nat.cast_zero, zero_div]
    rfl
  · rw [extReal_resultOf_x2fAt f le_rfl, x2fValue, x2fMag_maxRaw, signedValue_unitsPerOne]
    rfl
  · have hnormal : 2 ^ f.fracBits ≤ rcpSig .w16 f * 2 ^ rcpExp .w16 f :=
      (two_pow_le_rcpSig .w16 f).trans (Nat.le_mul_of_pos_right _ (Nat.two_pow_pos _))
    exact hnormal.trans (rcp16_le_x2fMag f hpos ha)
  · exact rcp16_le_x2fMag f hpos ha
  · exact fun hlt => (x2fMag_lt f hlt le_rfl).trans_eq (x2fMag_maxRaw w f)

end Sys2Proof.Machine
end

section
/-! The round trip through float (R69). In units that make the significand of RCP_F(W) an integer, the trip multiplies a
raw value by that significand, rounds, multiplies by MAX(W), rounds, and truncates. It falls below the raw value only
where the first rounding is a tie that goes down, which depends on the raw value's low bits alone. -/

namespace Sys2Proof.Machine

/-! ## The raw values that lose one -/

/-- A raw value (2 ^ (g + 1) + 4 * t + 1) * 2 ^ i: below its leading bit stand g - 1 free bits, then 01, then zeros. -/
def LosesOne (g a : Nat) : Prop := ∃ i t, t < 2 ^ (g - 1) ∧ (2 ^ (g + 1) + 4 * t + 1) * 2 ^ i = a

/-- The first n rows of these raw values, in increasing order. -/
def losingRaws (g n : Nat) : List Nat :=
  (List.range n).flatMap fun i => (List.range (2 ^ (g - 1))).map fun t => (2 ^ (g + 1) + 4 * t + 1) * 2 ^ i

theorem mem_losingRaws {g n a : Nat} (ha : a < 2 ^ (g + 1 + n)) : a ∈ losingRaws g n ↔ LosesOne g a := by
  simp only [losingRaws, LosesOne, List.mem_flatMap, List.mem_map, List.mem_range]
  constructor
  · rintro ⟨i, -, t, ht, rfl⟩
    exact ⟨i, t, ht, rfl⟩
  · rintro ⟨i, t, ht, rfl⟩
    refine ⟨i, ?_, t, ht, rfl⟩
    have hle : 2 ^ (g + 1 + i) ≤ (2 ^ (g + 1) + 4 * t + 1) * 2 ^ i := by
      rw [Nat.pow_add]
      exact Nat.mul_le_mul_right _ (by omega)
    have := (Nat.pow_lt_pow_iff_right (by decide)).1 (hle.trans_lt ha)
    omega

theorem roundTripLow8F64_eq : SpecTables.roundTripLow8F64 = losingRaws 4 3 := by decide

theorem roundTripLow16F64_eq : SpecTables.roundTripLow16F64 = losingRaws 4 11 := by decide

theorem roundTripLow16F32_eq : SpecTables.roundTripLow16F32 = losingRaws 7 8 := by decide +kernel

theorem LosesOne.pos {g a : Nat} (h : LosesOne g a) : 0 < a := by
  obtain ⟨i, t, -, rfl⟩ := h
  exact Nat.mul_pos (Nat.succ_pos _) (Nat.two_pow_pos i)

/-- In the binade from 2 ^ j on they are known by a residue. -/
theorem losesOne_iff {g j a : Nat} (hg : 1 ≤ g) (hlo : 2 ^ j ≤ a) (hhi : a < 2 ^ (j + 1)) :
    LosesOne g a ↔ 4 * (a * 2 ^ g % 2 ^ (j + 1)) = 2 ^ (j + 1) := by
  obtain ⟨g, rfl⟩ := Nat.exists_eq_add_of_le' hg
  have hplace : 2 ^ (g + 1 + 1) = 4 * 2 ^ g := by ring
  constructor
  · rintro ⟨i, t, ht, rfl⟩
    rw [Nat.add_sub_cancel] at ht
    rw [hplace] at hlo hhi ⊢
    have hbinade : j = g + 2 + i := by
      have hge : 2 ^ (g + 2 + i) < 2 ^ (j + 1) := by
        refine lt_of_le_of_lt ?_ hhi
        rw [Nat.pow_add, hplace]
        exact Nat.mul_le_mul_right _ (by omega)
      have hle : 2 ^ j < 2 ^ (g + 3 + i) := by
        refine hlo.trans_lt ?_
        rw [Nat.pow_add, Nat.pow_succ, hplace]
        exact Nat.mul_lt_mul_of_pos_right (by omega) (Nat.two_pow_pos i)
      have := (Nat.pow_lt_pow_iff_right (by decide)).1 hge
      have := (Nat.pow_lt_pow_iff_right (by decide)).1 hle
      omega
    have hmod : 2 ^ (j + 1) = 4 * 2 ^ (i + (g + 1)) := by rw [hbinade]; ring
    rw [hmod, Nat.mul_assoc, ← Nat.pow_add, Nat.mul_mod_mul_right, Nat.add_assoc, Nat.mul_add_mod,
      Nat.mul_add_mod]
    omega
  · intro h
    rcases Nat.lt_or_ge j (g + 2) with hsmall | hlarge
    · obtain ⟨k, hk⟩ := Nat.exists_eq_add_of_le (Nat.lt_succ_iff.1 hsmall)
      rw [hk, Nat.pow_succ', Nat.pow_add, Nat.mul_left_comm, Nat.mul_comm (2 ^ j), Nat.mul_mod_mul_right,
        ← Nat.mul_assoc] at h
      have := Nat.eq_of_mul_eq_mul_right (Nat.two_pow_pos j) h
      omega
    · obtain ⟨i, rfl⟩ := Nat.exists_eq_add_of_le hlarge
      have hmod : 2 ^ (g + 2 + i + 1) = 4 * 2 ^ i * 2 ^ (g + 1) := by ring
      rw [hmod, Nat.mul_mod_mul_right, ← Nat.mul_assoc] at h
      have hres : a % (4 * 2 ^ i) = 2 ^ i := by
        have := Nat.eq_of_mul_eq_mul_right (Nat.two_pow_pos (g + 1)) h
        omega
      have ha : a = (4 * (a / (4 * 2 ^ i)) + 1) * 2 ^ i := by
        conv_lhs => rw [← Nat.div_add_mod a (4 * 2 ^ i), hres]
        ring
      generalize a / (4 * 2 ^ i) = v at ha
      subst ha
      have hge : 4 * 2 ^ g ≤ 4 * v + 1 :=
        Nat.le_of_mul_le_mul_right (c := 2 ^ i) (by convert hlo using 1; ring) (Nat.two_pow_pos i)
      have hlt : 4 * v + 1 < 8 * 2 ^ g :=
        Nat.lt_of_mul_lt_mul_right (a := 2 ^ i) (by convert hhi using 1; ring)
      refine ⟨i, v - 2 ^ g, by rw [Nat.add_sub_cancel]; omega, ?_⟩
      rw [hplace]
      congr 1
      omega

/-! ## The trip in units that make the reciprocal's significand an integer -/

/-- How many such units make 1.0. -/
def tripOne (w : FracWidth) (f : FloatFmt) : Nat := 2 ^ f.fracBits * 2 ^ w.bits

/-- The product that X2F.W.F makes of a raw value, rounded. -/
def outward (w : FracWidth) (f : FloatFmt) (a : Nat) : Nat := rneMag f (a * rcpSig w f) 1

/-- The product that F2X.W.F makes of that, rounded. -/
def homeward (w : FracWidth) (f : FloatFmt) (a : Nat) : Nat := rneMag f (outward w f a * w.maxRaw) 1

theorem tripOne_mul_two_pow_rcpExp (w : FracWidth) (f : FloatFmt) :
    tripOne w f * 2 ^ rcpExp w f = unitsPerOne f := by
  rw [tripOne, ← Nat.pow_add, two_pow_mul_two_pow_rcpExp]

theorem x2fMag_eq (w : FracWidth) (f : FloatFmt) (a : Nat) : x2fMag w f a = outward w f a * 2 ^ rcpExp w f := rfl

theorem mul_rcpSig_lt_maxFinite {w : FracWidth} (f : FloatFmt) {a : Nat} (ha : a ≤ w.maxRaw) :
    a * rcpSig w f < maxFinite f :=
  (Nat.le_mul_of_pos_right _ (Nat.two_pow_pos _)).trans_lt (mul_reciprocal_lt_maxFinite f ha)

theorem two_pow_le_outward {w : FracWidth} (f : FloatFmt) {a : Nat} (hpos : 0 < a) (ha : a ≤ w.maxRaw) :
    2 ^ f.fracBits ≤ outward w f a := by
  have hunit : 2 ^ f.fracBits ≤ unitsPerOne f := by
    rw [unitsPerOne_eq]
    exact Nat.pow_le_pow_right (by decide) (by cases f <;> decide)
  exact le_rneMag_of_representable (representable_two_pow hunit) (mul_rcpSig_lt_maxFinite f ha)
    (two_pow_le_mul_rcpSig w f hpos)

theorem x2fMag_le_unitsPerOne {w : FracWidth} (f : FloatFmt) {a : Nat} (ha : a ≤ w.maxRaw) :
    x2fMag w f a ≤ unitsPerOne f := by
  rw [← x2fMag_maxRaw w f]
  rcases ha.lt_or_eq with hlt | rfl
  · exact (x2fMag_lt f hlt le_rfl).le
  · exact le_rfl

theorem resultOf_f2xAt_of_lt {w : FracWidth} {f : FloatFmt} {x : Nat} (hx : x < 2 ^ floatBits f) (b : Nat) :
    resultOf (f2xAt w f) x b = f2xOf w f (asDatum f x) := by
  have hbus : 2 ^ floatBits f ≤ 2 ^ 64 := by cases f <;> decide
  have h := resultOf_f2xAt w f (BitVec.ofNat 64 x) b
  rwa [floatOperand_eq, BitVec.toNat_ofNat, Nat.mod_eq_of_lt (hx.trans_le hbus), Nat.mod_eq_of_lt hx] at h

theorem resultOf_trip {w : FracWidth} (f : FloatFmt) {a : Nat} (ha : a ≤ w.maxRaw) :
    resultOf (f2xAt w f) (resultOf (x2fAt w f) a 0) 0 = homeward w f a / tripOne w f := by
  have hbits : resultOf (x2fAt w f) a 0 < 2 ^ floatBits f := by
    rw [resultOf_x2fAt f ha]
    exact datumBits_lt (inRange_fmul f _ _)
  rw [resultOf_f2xAt_of_lt hbits, asDatum_resultOf_x2fAt f ha, f2xOf_unit w (x2fMag_le_unitsPerOne f ha)]
  rcases Nat.eq_zero_or_pos a with rfl | hpos
  · simp [homeward, outward]
  · have hnormal : 2 ^ f.fracBits ≤ outward w f a * w.maxRaw :=
      (two_pow_le_outward f hpos ha).trans (Nat.le_mul_of_pos_right _ (maxRaw_pos w))
    rw [x2fMag_eq, Nat.mul_right_comm, rneMag_mul_two_pow _ hnormal, ← tripOne_mul_two_pow_rcpExp w f,
      Nat.mul_div_mul_right _ _ (Nat.two_pow_pos _), homeward]

/-! ## The trip misses its start by less than one raw value -/

theorem maxRaw_succ (w : FracWidth) : w.maxRaw + 1 = 2 ^ w.bits := by cases w <;> decide

theorem mul_rcpSig_mul_maxRaw_near (w : FracWidth) (f : FloatFmt) (a : Nat) :
    a * rcpSig w f * w.maxRaw ≤ a * tripOne w f + a * 127 ∧
      a * tripOne w f ≤ a * rcpSig w f * w.maxRaw + a * 128 := by
  have hone : rcpSig w f * w.maxRaw ≤ tripOne w f + 127 ∧ tripOne w f ≤ rcpSig w f * w.maxRaw + 128 := by
    cases w <;> cases f <;> decide
  rw [Nat.mul_assoc, ← Nat.mul_add, ← Nat.mul_add]
  exact ⟨Nat.mul_le_mul_left a hone.1, Nat.mul_le_mul_left a hone.2⟩

theorem outward_near {w : FracWidth} (f : FloatFmt) {a : Nat} (ha : a ≤ w.maxRaw) :
    2 * outward w f a ≤ 2 * (a * rcpSig w f) + 2 ^ w.bits ∧
      2 * (a * rcpSig w f) ≤ 2 * outward w f a + 2 ^ w.bits := by
  have hspacing : 2 ^ lastBit f (a * rcpSig w f) ≤ 2 ^ w.bits :=
    Nat.pow_le_pow_right (by decide) (lastBit_le_of_lt (mul_rcpSig_lt f ha))
  obtain ⟨hup, hdown⟩ := rneMag_near f (a * rcpSig w f)
  exact ⟨hup.trans (by omega), hdown.trans (by rw [outward]; omega)⟩

/-- The product that F2X rounds is well within one raw value of the start. -/
theorem outward_mul_maxRaw_near {w : FracWidth} (f : FloatFmt) {a : Nat} (ha : a ≤ w.maxRaw) :
    2 * (outward w f a * w.maxRaw) + 2 ^ w.bits * 2 ^ w.bits < 2 * (a * tripOne w f) + 2 * tripOne w f ∧
      2 * (a * tripOne w f) + 2 ^ w.bits * 2 ^ w.bits < 2 * (outward w f a * w.maxRaw) + 2 * tripOne w f := by
  have hslack : 256 * 2 ^ w.bits + 2 * (2 ^ w.bits * 2 ^ w.bits) < 2 * tripOne w f := by
    cases w <;> cases f <;> decide
  have hmax := maxRaw_succ w
  have hspacing : 2 ^ w.bits * w.maxRaw ≤ 2 ^ w.bits * 2 ^ w.bits := Nat.mul_le_mul_left _ (by omega)
  obtain ⟨hup, hdown⟩ := outward_near f ha
  obtain ⟨hprodUp, hprodDown⟩ := mul_rcpSig_mul_maxRaw_near w f a
  have hup' := Nat.mul_le_mul_right w.maxRaw hup
  have hdown' := Nat.mul_le_mul_right w.maxRaw hdown
  rw [Nat.add_mul, Nat.mul_assoc 2, Nat.mul_assoc 2] at hup' hdown'
  omega

theorem homeward_near {w : FracWidth} (f : FloatFmt) {a : Nat} (ha : a ≤ w.maxRaw) :
    homeward w f a < a * tripOne w f + tripOne w f ∧ a * tripOne w f < homeward w f a + tripOne w f := by
  obtain ⟨hup, hdown⟩ := outward_mul_maxRaw_near f ha
  have hlast : lastBit f (outward w f a * w.maxRaw) ≤ w.bits + w.bits := by
    refine lastBit_le_of_lt ?_
    have hcarry : a * tripOne w f + tripOne w f ≤ 2 ^ w.bits * tripOne w f := by
      rw [← Nat.succ_mul, ← maxRaw_succ]
      exact Nat.mul_le_mul_right _ (Nat.succ_le_succ ha)
    have hpow : 2 ^ (f.fracBits + 1 + (w.bits + w.bits)) = 2 * (2 ^ w.bits * tripOne w f) := by
      rw [tripOne]; ring
    omega
  have hspacing : 2 ^ lastBit f (outward w f a * w.maxRaw) ≤ 2 ^ w.bits * 2 ^ w.bits := by
    rw [← Nat.pow_add]
    exact Nat.pow_le_pow_right (by decide) hlast
  obtain ⟨hroundUp, hroundDown⟩ := rneMag_near f (outward w f a * w.maxRaw)
  rw [homeward]
  omega

/-- So the trip gives the raw value back, or one less where it ends below it. -/
theorem resultOf_trip_eq {w : FracWidth} (f : FloatFmt) {a : Nat} (ha : a ≤ w.maxRaw) :
    resultOf (f2xAt w f) (resultOf (x2fAt w f) a 0) 0 =
      if homeward w f a < a * tripOne w f then a - 1 else a := by
  obtain ⟨hup, hdown⟩ := homeward_near f ha
  rw [resultOf_trip f ha]
  split
  · rename_i hlt
    have hpos : 0 < a := Nat.pos_of_ne_zero fun h => by simp [h] at hlt
    obtain ⟨b, rfl⟩ := Nat.exists_eq_add_of_le' hpos
    rw [Nat.succ_mul] at hdown
    exact Nat.div_eq_of_lt_le (by rw [Nat.add_sub_cancel]; omega) (by rwa [Nat.add_sub_cancel])
  · rename_i hge
    exact Nat.div_eq_of_lt_le (by omega) (by rw [Nat.succ_mul]; omega)

end Sys2Proof.Machine
end

section
/-! Where the trip through float ends below its start (R69). -/

namespace Sys2Proof.Machine

/-! ## Rounding against an even multiple of the divisor (R13) -/

/-- Below an even multiple rounds what is nearer to the multiple before it. -/
theorem roundHalfEven_lt_iff (n : Nat) {d k : Nat} (hd : 0 < d) (hk : k % 2 = 0) :
    roundHalfEven n d < k ↔ 2 * n + d < 2 * (d * k) := by
  have hn := Nat.div_add_mod n d
  have hm := Nat.mod_lt n hd
  constructor
  · intro h
    have hstep {j : Nat} (hj : n / d + j ≤ k) : d * (n / d) + d * j ≤ d * k := by
      rw [← Nat.mul_add]; exact Nat.mul_le_mul_left d hj
    unfold roundHalfEven at h
    split_ifs at h with hlow hhigh
    · have := hstep (j := 1) (by omega)
      omega
    · have := hstep (j := 2) (by omega)
      omega
    · have := hstep (j := 2) (by omega)
      omega
  · intro h
    have hnear := (roundHalfEven_near n hd).1
    exact Nat.lt_of_mul_lt_mul_left (a := d) (by omega)

/-- The number n / (2 * h), rounded and multiplied by M, falls short of n * M + c by more than half of (M + 1) * 2 * h
where n / (2 * h) is a tie that goes down, and only there. -/
theorem roundHalfEven_mul_short_iff {n h M G c : Nat} (hh : 0 < h) (hlo : h < c) (hc : c ≤ G * M)
    (hhi : c < h * (M + 1)) (hdvd : n % (2 * h) = 0 ∨ (G ∣ n ∧ G ∣ h)) :
    2 * (roundHalfEven n (2 * h) * (2 * h) * M) + (M + 1) * (2 * h) < 2 * (n * M + c) ↔
      n % (4 * h) = h := by
  have hn := Nat.div_add_mod n (2 * h)
  have he := Nat.mod_lt n (show 0 < 2 * h by omega)
  have hres : n % (4 * h) = n % (2 * h) + 2 * h * (n / (2 * h) % 2) := by
    rw [show 4 * h = 2 * h * 2 by ring, Nat.mod_mul]
  have hbelow : n % (2 * h) < h → n % (2 * h) * M + c ≤ h * M + h := by
    intro hlt
    rcases hdvd with hzero | ⟨hGn, hGh⟩
    · rw [hzero]
      rw [Nat.mul_succ] at hhi
      omega
    · have hgap := Nat.le_of_dvd (Nat.sub_pos_of_lt hlt)
        (Nat.dvd_sub hGh ((Nat.dvd_mod_iff (hGh.mul_left 2)).2 hGn))
      have := Nat.mul_le_mul_right M (show n % (2 * h) + G ≤ h by omega)
      rw [Nat.add_mul] at this
      omega
  have habove : n % (2 * h) * M ≤ 2 * (h * M) := by
    rw [← Nat.mul_assoc]; exact Nat.mul_le_mul_right M he.le
  have hprod : n * M = n / (2 * h) * (2 * h) * M + n % (2 * h) * M := by
    rw [← Nat.add_mul, Nat.mul_comm (n / _), hn]
  have hcarry : (n / (2 * h) + 1) * (2 * h) * M = n / (2 * h) * (2 * h) * M + 2 * (h * M) := by ring
  have hspacing : (M + 1) * (2 * h) = 2 * (h * M) + 2 * h := by ring
  rw [Nat.mul_succ] at hhi
  rw [hres, hprod, hspacing]
  rcases lt_trichotomy (n % (2 * h)) h with hdown | htie | hup
  · rw [roundHalfEven, if_pos (by omega)]
    have := hbelow hdown
    rcases Nat.mod_two_eq_zero_or_one (n / (2 * h)) with heven | hodd
    · rw [heven]; omega
    · rw [hodd]; omega
  · rw [roundHalfEven, if_neg (by omega), if_neg (by omega), htie]
    rcases Nat.mod_two_eq_zero_or_one (n / (2 * h)) with heven | hodd
    · rw [heven, Nat.add_zero]; omega
    · rw [hodd, hcarry]; omega
  · rw [roundHalfEven, if_neg (by omega), if_pos (by omega), hcarry]
    rcases Nat.mod_two_eq_zero_or_one (n / (2 * h)) with heven | hodd
    · rw [heven]; omega
    · rw [hodd]; omega

/-! ## The first rounding -/

theorem lastBit_eq {f : FloatFmt} {n k : Nat} (hlo : 2 ^ (f.fracBits + k) ≤ n) (hhi : n < 2 ^ (f.fracBits + 1 + k)) :
    lastBit f n = k := by
  have hle := lastBit_le_of_lt hhi
  have hlt := (Nat.pow_lt_pow_iff_right (by decide)).1 (hlo.trans_lt (lt_pow_lastBit f n))
  omega

/-- Below MAX(W) the significand's own fraction does not carry a product into the next binade. -/
theorem mul_rcpSig_lt_succ {w : FracWidth} (f : FloatFmt) {a : Nat} (ha : a < w.maxRaw) :
    a * rcpSig w f < (a + 1) * 2 ^ f.fracBits := by
  have hfraction : (w.maxRaw - 1) * (rcpSig w f - 2 ^ f.fracBits) < 2 ^ f.fracBits := by
    cases w <;> cases f <;> decide
  have hle : a * (rcpSig w f - 2 ^ f.fracBits) ≤ (w.maxRaw - 1) * (rcpSig w f - 2 ^ f.fracBits) :=
    Nat.mul_le_mul_right _ (by omega)
  rw [Nat.succ_mul, ← Nat.sub_add_cancel (two_pow_le_rcpSig w f), Nat.mul_add]
  omega

theorem binade_lt_bits {w : FracWidth} {a j : Nat} (ha : a < w.maxRaw) (hlo : 2 ^ j ≤ a) : j < w.bits := by
  have hlt := lt_pow_bits_of_le_maxRaw ha.le
  exact (Nat.pow_lt_pow_iff_right (by decide)).1 (hlo.trans_lt hlt)

section
variable {w : FracWidth} (f : FloatFmt) {a j : Nat} (ha : a < w.maxRaw) (hlo : 2 ^ j ≤ a) (hhi : a < 2 ^ (j + 1))
include ha hlo hhi

theorem lastBit_mul_rcpSig : lastBit f (a * rcpSig w f) = j := by
  apply lastBit_eq
  · rw [Nat.add_comm, Nat.pow_add]
    exact Nat.mul_le_mul hlo (two_pow_le_rcpSig w f)
  · refine (mul_rcpSig_lt_succ f ha).trans_le ?_
    rw [show 2 ^ (f.fracBits + 1 + j) = 2 ^ (j + 1) * 2 ^ f.fracBits by ring]
    exact Nat.mul_le_mul_right _ hhi

theorem outward_eq : outward w f a = roundHalfEven (a * rcpSig w f) (2 ^ j) * 2 ^ j := by
  rw [outward, rneMag_one_eq, lastBit_mul_rcpSig f ha hlo hhi]

end

/-! ## The second rounding -/

section
variable {w : FracWidth} (f : FloatFmt) {a j : Nat} (ha : a < w.maxRaw) (hlo : 2 ^ j < a) (hhi : a < 2 ^ (j + 1))
include ha hlo hhi

theorem lastBit_outward_mul_maxRaw : lastBit f (outward w f a * w.maxRaw) = w.bits + j := by
  obtain ⟨hup, hdown⟩ := outward_mul_maxRaw_near f ha.le
  have hstart : (2 ^ j + 1) * tripOne w f ≤ a * tripOne w f := Nat.mul_le_mul_right _ hlo
  have hend : (a + 1) * tripOne w f ≤ 2 ^ (j + 1) * tripOne w f := Nat.mul_le_mul_right _ hhi
  rw [Nat.succ_mul] at hstart hend
  apply lastBit_eq
  · have hpow : 2 ^ (f.fracBits + (w.bits + j)) = 2 ^ j * tripOne w f := by rw [tripOne]; ring
    omega
  · have hpow : 2 ^ (f.fracBits + 1 + (w.bits + j)) = 2 ^ (j + 1) * tripOne w f := by rw [tripOne]; ring
    omega

/-- The start is an even multiple of the spacing, so the trip ends below it where the product is nearer to what is
below it. -/
theorem homeward_lt_iff : homeward w f a < a * tripOne w f ↔
    2 * (outward w f a * w.maxRaw) + 2 ^ w.bits * 2 ^ j < 2 * (a * tripOne w f) := by
  have hj := binade_lt_bits ha hlo.le
  have hbits : w.bits < f.fracBits := by cases w <;> cases f <;> decide
  obtain ⟨k, hk⟩ := Nat.exists_eq_add_of_lt (hj.trans hbits)
  have hstart : a * tripOne w f = a * 2 ^ (k + 1) * 2 ^ (w.bits + j) := by
    rw [tripOne, hk]; ring
  have heven : a * 2 ^ (k + 1) % 2 = 0 := by
    rw [Nat.pow_succ, ← Nat.mul_assoc, Nat.mul_mod_left]
  rw [homeward, rneMag_one_eq, lastBit_outward_mul_maxRaw f ha hlo hhi, hstart,
    Nat.mul_lt_mul_right (Nat.two_pow_pos _), roundHalfEven_lt_iff _ (Nat.two_pow_pos _) heven, ← Nat.pow_add,
    Nat.mul_comm (2 ^ (w.bits + j))]

end

/-! ## Raw values that come back whatever the reciprocal -/

theorem mul_tripOne_lt_maxFinite {w : FracWidth} (f : FloatFmt) {a : Nat} (ha : a ≤ w.maxRaw) :
    a * tripOne w f < maxFinite f := by
  have hunit : tripOne w f ≤ unitsPerOne f := by
    rw [← tripOne_mul_two_pow_rcpExp w f]
    exact Nat.le_mul_of_pos_right _ (Nat.two_pow_pos _)
  exact (Nat.mul_le_mul_left a hunit).trans_lt (mul_unitsPerOne_lt_maxFinite f (ha.trans (maxRaw_le w)))

/-- MAX(W) comes back: X2F makes 1.0 of it. -/
theorem homeward_maxRaw (w : FracWidth) (f : FloatFmt) : homeward w f w.maxRaw = w.maxRaw * tripOne w f := by
  have houtward : outward w f w.maxRaw = tripOne w f := by
    have h := x2fMag_maxRaw w f
    rw [x2fMag_eq, ← tripOne_mul_two_pow_rcpExp w f] at h
    exact Nat.eq_of_mul_eq_mul_right (Nat.two_pow_pos _) h
  have hprec : w.maxRaw < 2 ^ precision f := by cases w <;> cases f <;> decide
  rw [homeward, houtward, Nat.mul_comm]
  exact rneMag_of_representable ⟨(mul_tripOne_lt_maxFinite f le_rfl).le, w.maxRaw, f.fracBits + w.bits, hprec, by
    rw [tripOne, ← Nat.pow_add]⟩

/-- A power of two comes back: both roundings are those of the reciprocal and of 1. -/
theorem homeward_two_pow (w : FracWidth) (f : FloatFmt) (j : Nat) : homeward w f (2 ^ j) = 2 ^ j * tripOne w f := by
  have hone : rneMag f (rcpSig w f) 1 = rcpSig w f := by cases w <;> cases f <;> decide
  have hback : rneMag f (rcpSig w f * w.maxRaw) 1 = tripOne w f := by cases w <;> cases f <;> decide
  have hsig := two_pow_le_rcpSig w f
  have hnormal : 2 ^ f.fracBits ≤ rcpSig w f * w.maxRaw := hsig.trans (Nat.le_mul_of_pos_right _ (maxRaw_pos w))
  rw [homeward, outward, Nat.mul_comm (2 ^ j), rneMag_mul_two_pow _ hsig, hone, Nat.mul_right_comm,
    rneMag_mul_two_pow _ hnormal, hback, Nat.mul_comm]

/-- Every raw value is 0, a power of two, MAX(W), or within a binade. -/
theorem raw_cases {w : FracWidth} {a : Nat} (ha : a ≤ w.maxRaw) :
    a = 0 ∨ (∃ j, a = 2 ^ j) ∨ a = w.maxRaw ∨ (a < w.maxRaw ∧ ∃ j, 2 ^ j < a ∧ a < 2 ^ (j + 1)) := by
  rcases Nat.eq_zero_or_pos a with hzero | hpos
  · exact .inl hzero
  · have hlo := Nat.log2_self_le hpos.ne'
    rcases hlo.lt_or_eq with hlt | heq
    · rcases ha.lt_or_eq with hmax | hmax
      · exact .inr (.inr (.inr ⟨hmax, _, hlt, Nat.lt_log2_self⟩))
      · exact .inr (.inr (.inl hmax))
    · exact .inr (.inl ⟨_, heq.symm⟩)

/-! ## A reciprocal rounded up: no raw value is lost -/

/-- F32 at W = 8: the reciprocal's own error is upwards, and the first rounding alone does not reach half a spacing. -/
theorem not_homeward_lt_w8_f32 {a : Nat} (ha : a ≤ FracWidth.w8.maxRaw) :
    ¬ homeward .w8 .f32 a < a * tripOne .w8 .f32 := by
  rcases raw_cases ha with rfl | ⟨j, rfl⟩ | rfl | ⟨hmax, j, hlo, hhi⟩
  · simp
  · rw [homeward_two_pow]; exact lt_irrefl _
  · rw [homeward_maxRaw]; exact lt_irrefl _
  · have hrcp : rcpSig .w8 .f32 * 255 = tripOne .w8 .f32 + 127 := by decide
    have hnear := (rneMag_near .f32 (a * rcpSig .w8 .f32)).2
    rw [lastBit_mul_rcpSig .f32 hmax hlo.le hhi, ← outward] at hnear
    rw [homeward_lt_iff .f32 hmax hlo hhi, maxRaw_w8, show 2 ^ FracWidth.w8.bits = 256 from rfl]
    have hstart : a * rcpSig .w8 .f32 * 255 = a * tripOne .w8 .f32 + a * 127 := by
      rw [Nat.mul_assoc, hrcp, Nat.mul_add]
    omega

/-! ## A reciprocal rounded down -/

/-- The significand of RCP_F(W) times MAX(W) is short of 1.0 by 2 ^ g, which is also its low W bits. -/
structure RoundedDown (w : FracWidth) (f : FloatFmt) (g : Nat) : Prop where
  short : rcpSig w f * w.maxRaw + 2 ^ g = tripOne w f
  low : rcpSig w f ≡ 2 ^ g [MOD 2 ^ w.bits]
  pos : 1 ≤ g
  small : g + 2 ≤ w.bits

theorem roundedDown_w8_f64 : RoundedDown .w8 .f64 4 := ⟨by decide, by decide, by decide, by decide⟩

theorem roundedDown_w16_f32 : RoundedDown .w16 .f32 7 := ⟨by decide, by decide, by decide, by decide⟩

theorem roundedDown_w16_f64 : RoundedDown .w16 .f64 4 := ⟨by decide, by decide, by decide, by decide⟩

/-- MAX(W) has W ones and so does not lose one. -/
theorem not_losesOne_maxRaw {w : FracWidth} {g : Nat} (hg : 1 ≤ g) (hsmall : g + 2 ≤ w.bits) :
    ¬ LosesOne g w.maxRaw := by
  obtain ⟨g, rfl⟩ := Nat.exists_eq_add_of_le' hg
  rintro ⟨i, t, ht, heq⟩
  have hodd : w.maxRaw % 2 = 1 := by cases w <;> decide
  have hmax := maxRaw_succ w
  have hle : 2 ^ (g + 1 + 2) ≤ 2 ^ w.bits := Nat.pow_le_pow_right (by decide) hsmall
  have hplace : 2 ^ (g + 1 + 1) = 4 * 2 ^ g ∧ 2 ^ (g + 1 + 2) = 8 * 2 ^ g := ⟨by ring, by ring⟩
  rw [Nat.add_sub_cancel] at ht
  cases i with
  | zero =>
    rw [Nat.pow_zero, Nat.mul_one] at heq
    omega
  | succ i =>
    rw [Nat.pow_succ 2 i, ← Nat.mul_assoc] at heq
    omega

theorem not_losesOne_two_pow {g : Nat} (hg : 1 ≤ g) (j : Nat) : ¬ LosesOne g (2 ^ j) := by
  have hdvd : 2 ^ (j + 1) ∣ 2 ^ j * 2 ^ g := by
    rw [← Nat.pow_add]; exact Nat.pow_dvd_pow 2 (by omega)
  rw [losesOne_iff hg le_rfl (Nat.pow_lt_pow_right (by decide) (Nat.lt_succ_self j)), Nat.mod_eq_zero_of_dvd hdvd]
  exact (Nat.two_pow_pos _).ne

theorem RoundedDown.two_pow_dvd_rcpSig {w : FracWidth} {f : FloatFmt} {g : Nat} (hr : RoundedDown w f g) :
    2 ^ g ∣ rcpSig w f :=
  (hr.low.dvd_iff (Nat.pow_dvd_pow 2 (le_of_add_le_left hr.small))).2 dvd_rfl

/-- Within a binade: the tie that goes down is the residue by which the raw values that lose one are known. -/
theorem homeward_lt_iff_losesOne_of_binade {w : FracWidth} {f : FloatFmt} {g a i : Nat} (hr : RoundedDown w f g)
    (ha : a < w.maxRaw) (hlo : 2 ^ (i + 1) < a) (hhi : a < 2 ^ (i + 2)) :
    homeward w f a < a * tripOne w f ↔ LosesOne g a := by
  have hbits := binade_lt_bits ha hlo.le
  have htwo : 2 ^ (i + 1) = 2 * 2 ^ i := Nat.pow_succ'
  have hfour : 2 ^ (i + 2) = 4 * 2 ^ i := by ring
  have hstart : a * tripOne w f = a * rcpSig w f * w.maxRaw + a * 2 ^ g := by
    rw [← hr.short, Nat.mul_add, Nat.mul_assoc]
  have hres : a * rcpSig w f % 2 ^ (i + 2) = a * 2 ^ g % 2 ^ (i + 2) :=
    (hr.low.of_dvd (Nat.pow_dvd_pow 2 hbits)).mul_left a
  have hlow : 2 ^ i < a * 2 ^ g := by
    have := Nat.le_mul_of_pos_right a (Nat.two_pow_pos g)
    omega
  have hhigh : a * 2 ^ g < 2 ^ i * (w.maxRaw + 1) := by
    calc a * 2 ^ g < 2 ^ (i + 2) * 2 ^ g := Nat.mul_lt_mul_of_pos_right hhi (Nat.two_pow_pos g)
      _ = 2 ^ i * 2 ^ (g + 2) := by ring
      _ ≤ 2 ^ i * (w.maxRaw + 1) := by
          rw [maxRaw_succ]
          exact Nat.mul_le_mul_left _ (Nat.pow_le_pow_right (by decide) hr.small)
  have hdvd : a * rcpSig w f % (2 * 2 ^ i) = 0 ∨ (2 ^ g ∣ a * rcpSig w f ∧ 2 ^ g ∣ 2 ^ i) := by
    rcases Nat.lt_or_ge i g with hlt | hge
    · rw [← htwo]
      exact .inl (Nat.mod_eq_zero_of_dvd
        (((Nat.pow_dvd_pow 2 hlt).trans hr.two_pow_dvd_rcpSig).mul_left a))
    · exact .inr ⟨hr.two_pow_dvd_rcpSig.mul_left a, Nat.pow_dvd_pow 2 hge⟩
  have hshort := roundHalfEven_mul_short_iff (Nat.two_pow_pos i) hlow
    (by rw [Nat.mul_comm]; exact Nat.mul_le_mul_left _ ha.le) hhigh hdvd
  rw [homeward_lt_iff f ha hlo hhi, outward_eq f ha hlo.le hhi, hstart, ← maxRaw_succ, htwo, hshort, ← hfour, hres,
    losesOne_iff hr.pos hlo.le hhi, hfour]
  omega

/-- The trip ends below its start exactly on the raw values that lose one. -/
theorem homeward_lt_iff_losesOne {w : FracWidth} {f : FloatFmt} {g : Nat} (hr : RoundedDown w f g) {a : Nat}
    (ha : a ≤ w.maxRaw) : homeward w f a < a * tripOne w f ↔ LosesOne g a := by
  rcases raw_cases ha with rfl | ⟨j, rfl⟩ | rfl | ⟨hmax, j, hlo, hhi⟩
  · exact iff_of_false (by simp) fun h => absurd h.pos (lt_irrefl 0)
  · exact iff_of_false (by rw [homeward_two_pow]; exact lt_irrefl _) (not_losesOne_two_pow hr.pos j)
  · exact iff_of_false (by rw [homeward_maxRaw]; exact lt_irrefl _) (not_losesOne_maxRaw hr.pos hr.small)
  · cases j with
    | zero => omega
    | succ i => exact homeward_lt_iff_losesOne_of_binade hr hmax hlo hhi

/-! ## The four variants -/

theorem resultOf_trip_of_roundedDown {w : FracWidth} {f : FloatFmt} {g : Nat} (hr : RoundedDown w f g) {a : Nat}
    (ha : a ≤ w.maxRaw) {low : List Nat} (hlow : a ∈ low ↔ LosesOne g a) :
    resultOf (f2xAt w f) (resultOf (x2fAt w f) a 0) 0 = if a ∈ low then a - 1 else a := by
  rw [resultOf_trip_eq f ha]
  exact if_congr ((homeward_lt_iff_losesOne hr ha).trans hlow.symm) rfl rfl

/-- Settles O53: the trip ends below the raw value exactly on the raw values that lose one, which are those listed. -/
theorem floatRoundTrip : Obligations.FloatRoundTrip := by
  refine ⟨fun r hr => ?_, fun r hr => ?_, fun r hr => ?_, fun r hr => ?_⟩
  · exact (resultOf_trip_eq .f32 hr).trans (if_neg (not_homeward_lt_w8_f32 hr))
  · refine resultOf_trip_of_roundedDown roundedDown_w8_f64 hr ?_
    rw [roundTripLow8F64_eq, mem_losingRaws (by omega)]
  · refine resultOf_trip_of_roundedDown roundedDown_w16_f32 hr ?_
    rw [roundTripLow16F32_eq, mem_losingRaws (by omega)]
  · refine resultOf_trip_of_roundedDown roundedDown_w16_f64 hr ?_
    rw [roundTripLow16F64_eq, mem_losingRaws (by omega)]

end Sys2Proof.Machine
end

section
/-! Minimum, maximum and compare: what they answer (R70 to R72), and that they follow the order of the represented reals
and of the floats X2F returns (R73). -/

namespace Sys2Proof.Machine

/-! ## What each command answers -/

theorem minResult_eq (w : FracWidth) (a b : Bus) :
    minResult w a b = min (a.toNat % 2 ^ w.bits) (b.toNat % 2 ^ w.bits) := by
  rw [minResult, fracOperand_eq, fracOperand_eq]

theorem maxResult_eq (w : FracWidth) (a b : Bus) :
    maxResult w a b = max (a.toNat % 2 ^ w.bits) (b.toNat % 2 ^ w.bits) := by
  rw [maxResult, fracOperand_eq, fracOperand_eq]

theorem cmpResult_eq (w : FracWidth) (a b : Bus) :
    cmpResult w a b = if a.toNat % 2 ^ w.bits < b.toNat % 2 ^ w.bits then 1
      else if a.toNat % 2 ^ w.bits = b.toNat % 2 ^ w.bits then 2 else 4 := by
  rw [cmpResult, fracOperand_eq, fracOperand_eq, compareOutcome_eq]

/-- Settles O13: both MIN commands answer the smaller of the operand fields. -/
theorem minAnswersSmaller : Obligations.MinAnswersSmaller :=
  ⟨rfl, rfl, fun _ => ⟨answers_of_result (minResult_eq .w8 _ _), answers_of_result (minResult_eq .w16 _ _)⟩⟩

/-- Settles O14: both MAX commands answer the larger of the operand fields. -/
theorem maxAnswersLarger : Obligations.MaxAnswersLarger :=
  ⟨rfl, rfl, fun _ => ⟨answers_of_result (maxResult_eq .w8 _ _), answers_of_result (maxResult_eq .w16 _ _)⟩⟩

/-- Settles O15: the sum of the three flags of CMP is the one whose comparison holds. -/
theorem cmpAnswersOneHot : Obligations.CmpAnswersOneHot :=
  ⟨rfl, rfl, fun _ => ⟨answers_of_result (cmpResult_eq .w8 _ _), answers_of_result (cmpResult_eq .w16 _ _)⟩⟩

/-! ## RES as a number -/

theorem commandResult_minAt (w : FracWidth) (a b : Bus) : commandResult (minAt w) a b = minResult w a b := by
  cases w <;> rfl

theorem commandResult_maxAt (w : FracWidth) (a b : Bus) : commandResult (maxAt w) a b = maxResult w a b := by
  cases w <;> rfl

section
variable {w : FracWidth} {a b : Nat} (ha : a ≤ w.maxRaw) (hb : b ≤ w.maxRaw)
include ha hb

theorem resultOf_minAt : resultOf (minAt w) a b = min a b := by
  rw [resultOf_eq, commandResult_minAt, minResult, ← zext64, ← zext64, fracOperand_zext64 ha, fracOperand_zext64 hb]

theorem resultOf_maxAt : resultOf (maxAt w) a b = max a b := by
  rw [resultOf_eq, commandResult_maxAt, maxResult, ← zext64, ← zext64, fracOperand_zext64 ha, fracOperand_zext64 hb]

theorem resultOf_cmpAt_eq_one_iff : resultOf (cmpAt w) a b = 1 ↔ a < b := by
  rw [resultOf_cmpAt ha hb, compareOutcome_eq]
  split_ifs <;> omega

theorem resultOf_cmpAt_eq_two_iff : resultOf (cmpAt w) a b = 2 ↔ a = b := by
  rw [resultOf_cmpAt ha hb, compareOutcome_eq]
  split_ifs <;> omega

theorem resultOf_cmpAt_eq_four_iff : resultOf (cmpAt w) a b = 4 ↔ b < a := by
  rw [resultOf_cmpAt ha hb, compareOutcome_eq]
  split_ifs <;> omega

end

/-! ## Order (R73) -/

/-- The real number a raw value stands for. -/
def rawReal (w : FracWidth) (r : Nat) : ℚ := (r : ℚ) / w.maxRaw

theorem rawReal_strictMono (w : FracWidth) : StrictMono (rawReal w) := fun _ _ h =>
  div_lt_div_of_pos_right (Nat.cast_lt.2 h) (Nat.cast_pos.2 (maxRaw_pos w))

theorem x2fValue_strictMonoOn (w : FracWidth) (f : FloatFmt) : StrictMonoOn (x2fValue w f) (Set.Iic w.maxRaw) :=
  fun _ ha _ ha' => (x2fValue_lt_iff f ha ha').2

/-- Settles O43: the real and the float of a raw value are both strictly increasing in it, so each keeps the order of two
raws and sends the smaller and the larger raw to the smaller and the larger value. -/
theorem orderLaw : Obligations.OrderLaw := by
  intro w f a b ha hb
  have hreal := rawReal_strictMono w
  have hflt := x2fValue_strictMonoOn w f
  rw [resultOf_minAt ha hb, resultOf_maxAt ha hb, resultOf_cmpAt_eq_one_iff ha hb, resultOf_cmpAt_eq_two_iff ha hb,
    resultOf_cmpAt_eq_four_iff ha hb]
  refine ⟨hreal.lt_iff_lt.symm, hreal.lt_iff_lt.symm, hreal.injective.eq_iff.symm, hreal.lt_iff_lt.symm,
    hreal.monotone.map_min, hreal.monotone.map_max, x2fValue w f a, x2fValue w f b, extReal_resultOf_x2fAt f ha 0,
    extReal_resultOf_x2fAt f hb 0, (hflt.lt_iff_lt ha hb).symm, ?_, ?_⟩
  · rw [← hflt.monotoneOn.map_min ha hb]
    exact extReal_resultOf_x2fAt f (min_le_of_left_le ha) 0
  · rw [← hflt.monotoneOn.map_max ha hb]
    exact extReal_resultOf_x2fAt f (max_le ha hb) 0

end Sys2Proof.Machine
end

section
/-! Saturating addition and subtraction: what they answer (R74, R75), and their laws on raws and on the represented reals
(R76, R77). -/

namespace Sys2Proof.Machine

/-! ## What each command answers -/

theorem addResult_eq (w : FracWidth) (a b : Bus) :
    addResult w a b = min (a.toNat % 2 ^ w.bits + b.toNat % 2 ^ w.bits) w.maxRaw := by
  rw [addResult, fracOperand_eq, fracOperand_eq]

theorem subResult_eq (w : FracWidth) (a b : Bus) :
    subResult w a b = a.toNat % 2 ^ w.bits - b.toNat % 2 ^ w.bits := by
  rw [subResult, fracOperand_eq, fracOperand_eq]

/-- The difference in the integers, cut off at 0, is the truncated difference of naturals (R75). -/
theorem subResult_eq_max (w : FracWidth) (a b : Bus) :
    subResult w a b = (max ((a.toNat % 2 ^ w.bits : Nat) - (b.toNat % 2 ^ w.bits : Nat) : Int) 0).toNat := by
  rw [subResult_eq, ← Int.ofNat_toNat, Int.toNat_natCast, Int.toNat_sub]

/-- Settles O5: both ADD commands answer the sum of the operand fields, cut off at the largest raw value. -/
theorem addAnswersSaturatedSum : Obligations.AddAnswersSaturatedSum :=
  ⟨rfl, rfl, fun _ => ⟨answers_of_result (addResult_eq .w8 _ _), answers_of_result (addResult_eq .w16 _ _)⟩⟩

/-- Settles O6: both SUB commands answer the difference of the operand fields, cut off at 0. -/
theorem subAnswersSaturatedDifference : Obligations.SubAnswersSaturatedDifference :=
  ⟨rfl, rfl, fun _ => ⟨answers_of_result (subResult_eq_max .w8 _ _), answers_of_result (subResult_eq_max .w16 _ _)⟩⟩

/-! ## RES as a number -/

theorem commandResult_addAt (w : FracWidth) (a b : Bus) : commandResult (addAt w) a b = addResult w a b := by
  cases w <;> rfl

theorem commandResult_subAt (w : FracWidth) (a b : Bus) : commandResult (subAt w) a b = subResult w a b := by
  cases w <;> rfl

section
variable {w : FracWidth} {a b : Nat} (ha : a ≤ w.maxRaw) (hb : b ≤ w.maxRaw)
include ha hb

theorem resultOf_addAt : resultOf (addAt w) a b = min (a + b) w.maxRaw := by
  rw [resultOf_eq, commandResult_addAt, addResult, ← zext64, ← zext64, fracOperand_zext64 ha, fracOperand_zext64 hb]

theorem resultOf_subAt : resultOf (subAt w) a b = a - b := by
  rw [resultOf_eq, commandResult_subAt, subResult, ← zext64, ← zext64, fracOperand_zext64 ha, fracOperand_zext64 hb]

theorem resultOf_addAt_le : resultOf (addAt w) a b ≤ w.maxRaw :=
  (resultOf_addAt ha hb).trans_le (min_le_right _ _)

theorem resultOf_subAt_le_left : resultOf (subAt w) a b ≤ a :=
  (resultOf_subAt ha hb).trans_le (Nat.sub_le a b)

end

/-! ## The represented reals -/

theorem rawReal_add (w : FracWidth) (a b : Nat) : rawReal w (a + b) = rawReal w a + rawReal w b := by
  rw [rawReal, rawReal, rawReal, Nat.cast_add, add_div]

@[simp] theorem rawReal_maxRaw (w : FracWidth) : rawReal w w.maxRaw = 1 :=
  div_self (Nat.cast_ne_zero.2 (maxRaw_pos w).ne')

theorem rawReal_saturatedSum (w : FracWidth) (a b : Nat) :
    rawReal w (min (a + b) w.maxRaw) = min (rawReal w a + rawReal w b) 1 := by
  rw [(rawReal_strictMono w).monotone.map_min, rawReal_add, rawReal_maxRaw]

/-- Adding b back to the cut-off difference gives the larger of a and b, and so it does for the reals. -/
theorem rawReal_saturatedDifference (w : FracWidth) (a b : Nat) :
    rawReal w (a - b) = max (rawReal w a - rawReal w b) 0 := by
  have hback : rawReal w (a - b) + rawReal w b = max (rawReal w a) (rawReal w b) := by
    rw [← rawReal_add, Nat.sub_add_eq_max, (rawReal_strictMono w).monotone.map_max]
  rw [eq_sub_of_add_eq hback, ← max_sub_sub_right, sub_self]

/-! ## The laws (R76, R77) -/

/-- Settles O39: a sum of raws is exact until it is cut off, and cutting off an inner sum first changes nothing. -/
theorem addLaws : Obligations.AddLaws := by
  intro w a b c ha hb hc
  have hzero := Nat.zero_le w.maxRaw
  refine ⟨?comm, ?assocLeft, ?assocRight, ?zero, ?max, ?lower, ?real⟩
  case comm => rw [resultOf_addAt ha hb, resultOf_addAt hb ha, Nat.add_comm]
  case assocLeft =>
    rw [resultOf_addAt (resultOf_addAt_le ha hb) hc, resultOf_addAt ha hb]
    omega
  case assocRight =>
    rw [resultOf_addAt ha (resultOf_addAt_le hb hc), resultOf_addAt hb hc]
    omega
  case zero => rw [resultOf_addAt ha hzero, Nat.add_zero, min_eq_left ha]
  case max => rw [resultOf_addAt ha le_rfl, min_eq_right (Nat.le_add_left _ _)]
  case lower =>
    rw [resultOf_addAt ha hb]
    omega
  case real =>
    rw [resultOf_addAt ha hb]
    exact rawReal_saturatedSum w a b

/-- Settles O40: SUB undoes ADD just when the sum was not cut off, and ADD after SUB restores a unless b is larger. -/
theorem subLaws : Obligations.SubLaws := by
  intro w a b ha hb
  have hdiff := resultOf_subAt_le_left ha hb
  refine ⟨?zero, ?eqZero, hdiff, ?subAdd, ?addSub, ?real⟩
  case zero => rw [resultOf_subAt ha (Nat.zero_le _), Nat.sub_zero]
  case eqZero => rw [resultOf_subAt ha hb, Nat.sub_eq_zero_iff_le]
  case subAdd =>
    rw [resultOf_subAt (resultOf_addAt_le ha hb) hb, resultOf_addAt ha hb]
    omega
  case addSub =>
    rw [resultOf_addAt (hdiff.trans ha) hb, resultOf_subAt ha hb, Nat.sub_add_eq_max, min_eq_left (max_le ha hb)]
  case real =>
    rw [resultOf_subAt ha hb]
    exact rawReal_saturatedDifference w a b

end Sys2Proof.Machine
end

section
/-! Inversion: what it answers (R78), and its laws on raws and on the represented reals (R79). -/

namespace Sys2Proof.Machine

/-! ## The complement in W bits -/

/-- The W-bit complement of a raw value is its distance from the largest one. -/
theorem toNat_not_raw {w : FracWidth} (x : BitVec w.bits) : (~~~ x).toNat = w.maxRaw - x.toNat := by
  rw [BitVec.toNat_not, maxRaw_eq]

/-! ## What each command answers -/

theorem invResult_eq (w : FracWidth) (a : Bus) : invResult w a = w.maxRaw - a.toNat % 2 ^ w.bits := by
  rw [invResult, fracOperand_eq]

theorem invResult_eq_not (w : FracWidth) (a : Bus) : invResult w a = (~~~ a.setWidth w.bits).toNat := by
  rw [invResult_eq, toNat_not_raw, BitVec.toNat_setWidth]

/-- Settles O12: both INV commands answer the distance of the operand field from the largest raw value, which is the
field's complement. -/
theorem invAnswersComplement : Obligations.InvAnswersComplement :=
  ⟨rfl, rfl, fun _ => ⟨answers_of_result (invResult_eq .w8 _), answers_of_result (invResult_eq_not .w8 _),
    answers_of_result (invResult_eq .w16 _), answers_of_result (invResult_eq_not .w16 _)⟩⟩

/-! ## RES as a number -/

theorem commandResult_invAt (w : FracWidth) (a b : Bus) : commandResult (invAt w) a b = invResult w a := by
  cases w <;> rfl

section
variable {w : FracWidth} {a : Nat} (ha : a ≤ w.maxRaw) (b : Nat)
include ha

theorem resultOf_invAt : resultOf (invAt w) a b = w.maxRaw - a := by
  rw [resultOf_eq, commandResult_invAt, invResult, ← zext64, fracOperand_zext64 ha]

theorem resultOf_invAt_le : resultOf (invAt w) a b ≤ w.maxRaw :=
  (resultOf_invAt ha b).trans_le (Nat.sub_le _ _)

/-- A raw value and its distance from the largest one add up to 1. -/
theorem rawReal_maxRaw_sub : rawReal w (w.maxRaw - a) = 1 - rawReal w a := by
  rw [eq_sub_iff_add_eq, ← rawReal_add, Nat.sub_add_cancel ha, rawReal_maxRaw]

end

/-! ## The laws (R79) -/

/-- Settles O41: the distance from the largest raw value is its own inverse and reverses order, and taking b off that
distance is taking it from a + b, however the sum or the difference is cut off. -/
theorem invLaws : Obligations.InvLaws := by
  intro w a b ha hb
  dsimp only
  have hinv := resultOf_invAt ha 0
  have hle := resultOf_invAt_le ha 0
  have hsub : resultOf (subAt w) (resultOf (invAt w) a 0) b = w.maxRaw - a - b := by
    rw [resultOf_subAt hle hb, hinv]
  refine ⟨?involution, hinv, ?complement, ?order, ?real, ?invAdd, ?clamp⟩
  case involution => rw [resultOf_invAt hle, hinv, Nat.sub_sub_self ha]
  case complement =>
    rw [hinv, toNat_not_raw, BitVec.toNat_ofNat, Nat.mod_eq_of_lt (lt_pow_bits_of_le_maxRaw ha)]
  case order =>
    rw [hinv, resultOf_invAt hb]
    omega
  case real =>
    rw [hinv]
    exact rawReal_maxRaw_sub ha
  case invAdd =>
    rw [hsub, resultOf_invAt (resultOf_addAt_le ha hb), resultOf_addAt ha hb]
    omega
  case clamp =>
    rw [hsub]
    omega

end Sys2Proof.Machine
end

section
/-! Width conversion: what WIDEN and NARROW answer (R80, R81), and their round trips and monotonicity (R82). -/

namespace Sys2Proof.Machine

/-! ## What each command answers -/

theorem widenResult_eq (a : Bus) : widenResult a = a.toNat % 256 * 257 := by
  rw [widenResult, fracOperand_w8]

theorem narrowResult_eq (a : Bus) : narrowResult a = a.toNat % 65536 / 257 := by
  rw [narrowResult, fracOperand_w16]

/-- Settles O10: WIDEN answers 257 times the operand byte, which is that byte above itself. -/
theorem widenAnswersTimes257 : Obligations.WidenAnswersTimes257 :=
  ⟨rfl, fun s => ⟨answers_of_result (widenResult_eq s.pins.a), widenResult_eq s.pins.a ▸ widenResult_le s.pins.a,
    Nat.mul_succ _ 256⟩⟩

/-- Settles O11: NARROW answers the quotient of the 16-bit operand field by 257, which fits in a byte. -/
theorem narrowAnswersQuotientBy257 : Obligations.NarrowAnswersQuotientBy257 :=
  ⟨rfl, fun s => ⟨answers_of_result (narrowResult_eq s.pins.a), narrowResult_eq s.pins.a ▸ narrowResult_le s.pins.a⟩⟩

/-! ## RES as a number -/

theorem resultOf_widen {a : Nat} (ha : a ≤ FracWidth.w8.maxRaw) (b : Nat) : resultOf .widen a b = a * 257 := by
  rw [resultOf_eq, commandResult, widenResult, ← zext64, fracOperand_zext64 ha]

theorem resultOf_narrow {a : Nat} (ha : a ≤ FracWidth.w16.maxRaw) (b : Nat) : resultOf .narrow a b = a / 257 := by
  rw [resultOf_eq, commandResult, narrowResult, ← zext64, fracOperand_zext64 ha]

theorem resultOf_widen_le (a b : Nat) : resultOf .widen a b ≤ FracWidth.w16.maxRaw :=
  (resultOf_eq .widen a b).trans_le (widenResult_le _)

theorem resultOf_narrow_le (a b : Nat) : resultOf .narrow a b ≤ FracWidth.w8.maxRaw :=
  (resultOf_eq .narrow a b).trans_le (narrowResult_le _)

/-! ## The laws (R82) -/

theorem resultOf_narrow_widen {x : Nat} (hx : x ≤ FracWidth.w8.maxRaw) :
    resultOf .narrow (resultOf .widen x 0) 0 = x := by
  rw [resultOf_narrow (resultOf_widen_le x 0), resultOf_widen hx, Nat.mul_div_cancel x (by decide)]

/-- Narrowing and widening again cuts y off to a multiple of 257. -/
theorem resultOf_widen_narrow {y : Nat} (hy : y ≤ FracWidth.w16.maxRaw) :
    resultOf .widen (resultOf .narrow y 0) 0 = y / 257 * 257 := by
  rw [resultOf_widen (resultOf_narrow_le y 0), resultOf_narrow hy]

/-- Settles O42: widening multiplies by 257 and narrowing divides by it, so only what narrowing truncates is lost. -/
theorem widthRoundTripLaws : Obligations.WidthRoundTripLaws := by
  dsimp only [Obligations.WidthRoundTripLaws]
  refine ⟨fun x hx => resultOf_narrow_widen hx, fun y hy => ?cutOff, fun x x' hlt hx' => ?widenLt,
    fun y y' hle hy' => ?narrowLe⟩
  case cutOff =>
    have hexact : y / 257 * 257 = y ↔ 257 ∣ y := (Nat.dvd_iff_div_mul_eq y 257).symm
    rw [resultOf_widen_narrow hy]
    exact ⟨hexact, fun hndvd => (Nat.div_mul_le_self y 257).lt_of_ne (mt hexact.1 hndvd)⟩
  case widenLt =>
    rw [resultOf_widen (hlt.le.trans hx'), resultOf_widen hx']
    exact Nat.mul_lt_mul_of_pos_right hlt (by decide)
  case narrowLe =>
    rw [resultOf_narrow (hle.trans hy'), resultOf_narrow hy']
    exact Nat.div_le_div_right hle

end Sys2Proof.Machine
end

section
/-! The widening multiply as an integer computation (R83): with both factors in units that make the significand of
RCP_F64(8) an integer, MULW rounds their product, multiplies it by MAX(16), rounds, and truncates. -/

namespace Sys2Proof.Machine

/-! ## What MULW answers -/

/-- MULW is F2X.16.F64 of the product of the two X2F.8.F64. -/
theorem mulwResult_eq (a b : Bus) : mulwResult a b =
    f2xOf .w16 .f64 (fmul .f64 (x2fDatum .w8 .f64 (a.toNat % 256)) (x2fDatum .w8 .f64 (b.toNat % 256))) := by
  rw [mulwResult, fracOperand_w8, fracOperand_w8, f2xOf]

/-- Settles O7: MULW answers its result, whose operands are the low bytes of A and B. -/
theorem mulwAnswersBinary64Path : Obligations.MulwAnswersBinary64Path :=
  ⟨rfl, fun s => answers_of_result (mulwResult_eq s.pins.a s.pins.b)⟩

/-! ## The two roundings after X2F -/

/-- The product of the two factors, rounded; 2 ^ 120 is 1.0. -/
def mulwProduct (a b : Nat) : Nat := rneMag .f64 (outward .w8 .f64 a * outward .w8 .f64 b) 1

/-- That times MAX(16), rounded. -/
def mulwScaled (a b : Nat) : Nat := rneMag .f64 (mulwProduct a b * 65535) 1

theorem mulwProduct_comm (a b : Nat) : mulwProduct a b = mulwProduct b a := by
  rw [mulwProduct, Nat.mul_comm, ← mulwProduct]

theorem mulwScaled_comm (a b : Nat) : mulwScaled a b = mulwScaled b a := by
  rw [mulwScaled, mulwProduct_comm, ← mulwScaled]

@[simp] theorem outward_zero (w : FracWidth) (f : FloatFmt) : outward w f 0 = 0 := by simp [outward]

@[simp] theorem mulwProduct_zero_left (b : Nat) : mulwProduct 0 b = 0 := by simp [mulwProduct]

@[simp] theorem mulwScaled_zero_left (b : Nat) : mulwScaled 0 b = 0 := by simp [mulwScaled]

theorem outward_le_tripOne {w : FracWidth} (f : FloatFmt) {a : Nat} (ha : a ≤ w.maxRaw) :
    outward w f a ≤ tripOne w f := by
  have h := x2fMag_le_unitsPerOne f ha
  rw [x2fMag_eq, ← tripOne_mul_two_pow_rcpExp w f] at h
  exact Nat.le_of_mul_le_mul_right h (Nat.two_pow_pos _)

/-- In the units of the product too, every power of two up to 1.0 is a magnitude of the format. -/
theorem representable_two_pow_f64 {e : Nat} (h : e ≤ 1074) : Representable .f64 (2 ^ e) :=
  representable_two_pow (by rw [unitsPerOne_eq]; exact Nat.pow_le_pow_right (by decide) h)

theorem two_pow_lt_maxFinite_f64 {e : Nat} (h : e ≤ 1074) : 2 ^ e < maxFinite .f64 := by
  refine lt_of_le_of_lt ?_ (unitsPerOne_lt_maxFinite .f64)
  rw [unitsPerOne_eq]
  exact Nat.pow_le_pow_right (by decide) h

/-- The place of the product's last bit, in powers of two of the format's unit. -/
def productExp : Nat := unitExp .f64 - 120

theorem unitsPerOne_f64 : unitsPerOne .f64 = 2 ^ 120 * 2 ^ productExp := by
  rw [unitsPerOne_eq, ← Nat.pow_add]
  exact congrArg (2 ^ ·) (by decide : unitExp .f64 = 120 + productExp)

theorem two_pow_rcpExp_w8_f64 : 2 ^ rcpExp .w8 .f64 = 2 ^ 60 * 2 ^ productExp := by
  rw [← Nat.pow_add]
  exact congrArg (2 ^ ·) (by decide : rcpExp .w8 .f64 = 60 + productExp)

section
variable {a b : Nat} (ha : a ≤ 255) (hb : b ≤ 255)

section
include ha hb

theorem outward_mul_le : outward .w8 .f64 a * outward .w8 .f64 b ≤ 2 ^ 120 := by
  have hone : tripOne .w8 .f64 * tripOne .w8 .f64 = 2 ^ 120 := by decide
  rw [← hone]
  exact Nat.mul_le_mul (outward_le_tripOne (w := .w8) .f64 ha) (outward_le_tripOne (w := .w8) .f64 hb)

theorem mulwProduct_le : mulwProduct a b ≤ 2 ^ 120 :=
  rneMag_le_of_representable (representable_two_pow_f64 (by decide)) (two_pow_lt_maxFinite_f64 (by decide))
    (outward_mul_le ha hb)

end

section
variable (ha0 : 0 < a) (hb0 : 0 < b)
include ha hb ha0 hb0

/-- 2 ^ 52 is the first normal magnitude. -/
theorem two_pow_le_outward_mul : 2 ^ 52 ≤ outward .w8 .f64 a * outward .w8 .f64 b :=
  (two_pow_le_outward (w := .w8) .f64 ha0 ha).trans
    (Nat.le_mul_of_pos_right _ ((Nat.two_pow_pos 52).trans_le (two_pow_le_outward (w := .w8) .f64 hb0 hb)))

theorem two_pow_le_mulwProduct : 2 ^ 52 ≤ mulwProduct a b :=
  le_rneMag_of_representable (representable_two_pow_f64 (by decide))
    ((outward_mul_le ha hb).trans_lt (two_pow_lt_maxFinite_f64 (by decide))) (two_pow_le_outward_mul ha hb ha0 hb0)

theorem two_pow_le_mulwProduct_mul : 2 ^ 52 ≤ mulwProduct a b * 65535 :=
  (two_pow_le_mulwProduct ha hb ha0 hb0).trans (Nat.le_mul_of_pos_right _ (by decide))

end

/-! ## MULW in these units -/

section
include ha hb

/-- The place of a number does not matter for the rounding of the product. -/
theorem rneMag_outward_mul (e : Nat) : rneMag .f64 (outward .w8 .f64 a * outward .w8 .f64 b * 2 ^ e) 1 =
    mulwProduct a b * 2 ^ e := by
  rcases Nat.eq_zero_or_pos a with rfl | ha0
  · simp
  · rcases Nat.eq_zero_or_pos b with rfl | hb0
    · simp [mulwProduct]
    · exact rneMag_mul_two_pow e (two_pow_le_outward_mul ha hb ha0 hb0)

/-- Nor for that of the scaled product. -/
theorem rneMag_mulwProduct_mul (e : Nat) : rneMag .f64 (mulwProduct a b * 65535 * 2 ^ e) 1 =
    mulwScaled a b * 2 ^ e := by
  rcases Nat.eq_zero_or_pos a with rfl | ha0
  · simp
  · rcases Nat.eq_zero_or_pos b with rfl | hb0
    · simp [mulwProduct_comm a, mulwScaled_comm a]
    · exact rneMag_mul_two_pow e (two_pow_le_mulwProduct_mul ha hb ha0 hb0)

/-- The product of the represented reals, rounded once, in units of the format. -/
theorem fmul_x2fDatum : fmul .f64 (x2fDatum .w8 .f64 a) (x2fDatum .w8 .f64 b) =
    .fin false (mulwProduct a b * 2 ^ productExp) := by
  have hnum : x2fMag .w8 .f64 a * x2fMag .w8 .f64 b =
      outward .w8 .f64 a * outward .w8 .f64 b * 2 ^ productExp * unitsPerOne .f64 := by
    rw [x2fMag_eq, x2fMag_eq, two_pow_rcpExp_w8_f64, unitsPerOne_f64]
    ring
  have hrne := rne_mul_right .f64 false (outward .w8 .f64 a * outward .w8 .f64 b * 2 ^ productExp) 1
    (unitsPerOne_pos .f64)
  have hlt : outward .w8 .f64 a * outward .w8 .f64 b * 2 ^ productExp < maxFinite .f64 := by
    refine lt_of_le_of_lt ?_ (unitsPerOne_lt_maxFinite .f64)
    rw [unitsPerOne_f64]
    exact Nat.mul_le_mul_right _ (outward_mul_le ha hb)
  rw [Nat.one_mul] at hrne
  rw [x2fDatum_eq (w := .w8) .f64 ha, x2fDatum_eq (w := .w8) .f64 hb, fmul_fin, Bool.bne_false, hnum, hrne,
    rne_of_lt (by rwa [Nat.mul_one]), rneMag_outward_mul ha hb]

/-- MULW truncates the scaled product. -/
theorem resultOf_mulw : resultOf .mulw a b = mulwScaled a b / 2 ^ 120 := by
  have hraw {x : Nat} (hx : x ≤ 255) : (BitVec.ofNat 64 x).toNat % 256 = x := by
    rw [BitVec.toNat_ofNat]; omega
  have hle : mulwProduct a b * 2 ^ productExp ≤ unitsPerOne .f64 := by
    rw [unitsPerOne_f64]
    exact Nat.mul_le_mul_right _ (mulwProduct_le ha hb)
  rw [resultOf_eq, commandResult, mulwResult_eq, hraw ha, hraw hb, fmul_x2fDatum ha hb, f2xOf_unit .w16 hle,
    maxRaw_w16, Nat.mul_right_comm, rneMag_mulwProduct_mul ha hb, unitsPerOne_f64,
    Nat.mul_div_mul_right _ _ (Nat.two_pow_pos _)]

end

/-! ## The scaled product is near the exact one -/

/-- Below 2 ^ (fracBits + 1 + k) the spacing is at most 2 ^ k, and rounding moves a number by at most half of it. -/
theorem rneMag_near_of_lt {f : FloatFmt} {n k : Nat} (h : n < 2 ^ (f.fracBits + 1 + k)) :
    2 * rneMag f n 1 ≤ 2 * n + 2 ^ k ∧ 2 * n ≤ 2 * rneMag f n 1 + 2 ^ k := by
  have hspacing := Nat.pow_le_pow_right (n := 2) (by decide) (lastBit_le_of_lt h)
  obtain ⟨hup, hdown⟩ := rneMag_near f n
  exact ⟨by omega, by omega⟩

/-- Each factor is near its operand divided by 255. -/
theorem outward_mul_255_near {a : Nat} (ha : a ≤ 255) : outward .w8 .f64 a * 255 ≤ a * 2 ^ 60 + 2 ^ 16 ∧
    a * 2 ^ 60 ≤ outward .w8 .f64 a * 255 + 2 ^ 16 := by
  have hnear := outward_near (w := .w8) .f64 ha
  have hrcp : rcpSig .w8 .f64 = 0x10101010101010 := rfl
  have hbits : FracWidth.w8.bits = 8 := rfl
  rw [hrcp, hbits] at hnear
  omega

include ha hb

theorem mulwProduct_near : 2 * mulwProduct a b ≤ 2 * (outward .w8 .f64 a * outward .w8 .f64 b) + 2 ^ 68 ∧
    2 * (outward .w8 .f64 a * outward .w8 .f64 b) ≤ 2 * mulwProduct a b + 2 ^ 68 :=
  rneMag_near_of_lt ((outward_mul_le ha hb).trans_lt (by decide))

theorem mulwScaled_near_mulwProduct : 2 * mulwScaled a b ≤ 2 * (mulwProduct a b * 65535) + 2 ^ 84 ∧
    2 * (mulwProduct a b * 65535) ≤ 2 * mulwScaled a b + 2 ^ 84 :=
  rneMag_near_of_lt ((Nat.mul_le_mul_right _ (mulwProduct_le ha hb)).trans_lt (by decide))

/-- All four roundings together move the result by far less than 1 / 255. -/
theorem mulwScaled_near : mulwScaled a b * 255 < (a * b * 257 + 1) * 2 ^ 120 ∧
    a * b * 257 * 2 ^ 120 < mulwScaled a b * 255 + 2 ^ 120 := by
  obtain ⟨haUp, haDown⟩ := outward_mul_255_near ha
  obtain ⟨hbUp, hbDown⟩ := outward_mul_255_near hb
  obtain ⟨hprodUp, hprodDown⟩ := mulwProduct_near ha hb
  obtain ⟨hscaledUp, hscaledDown⟩ := mulwScaled_near_mulwProduct ha hb
  have hup := Nat.mul_le_mul haUp hbUp
  have hdown := Nat.mul_le_mul haDown hbDown
  constructor
  · linarith
  · linarith

end

end Sys2Proof.Machine
end

section
/-! MULW against the exact product (R84): the two differ only where 255 divides a * b and the scaled product falls short
of the exact one, and E is the set of these pairs. The roundings commute with swapping
and doubling operands, and E is closed under both, so only pairs of odd operands are evaluated. -/

namespace Sys2Proof.Machine

/-! ## The set E (R84) -/

/-- The pairs of E, in one list. -/
def exceptions : List (Nat × Nat) := SpecTables.mulwRows.flatMap fun row => row.2.map fun b => (row.1, b)

theorem inE_iff_mem (a b : Nat) : SpecTables.inE a b = true ↔ (a, b) ∈ exceptions := by
  simp [SpecTables.inE, exceptions]

theorem exceptions_bounds : ∀ p ∈ exceptions,
    p.1 ≤ 255 ∧ p.2 ≤ 255 ∧ 255 ∣ p.1 * p.2 ∧ 0 < p.1 * p.2 := by decide +kernel

theorem exceptions_symmetric : ∀ p ∈ exceptions, SpecTables.inE p.2 p.1 = true := by decide +kernel

theorem exceptions_closed_under_doubling : ∀ p ∈ exceptions,
    (2 * p.1 ≤ 255 → SpecTables.inE (2 * p.1) p.2 = true) ∧
      (2 ∣ p.1 → SpecTables.inE (p.1 / 2) p.2 = true) := by decide +kernel

theorem exceptions_nodup : exceptions.Nodup := by decide +kernel

theorem exceptions_length : exceptions.length = 280 := by decide +kernel

theorem bounds_of_inE {a b : Nat} (h : SpecTables.inE a b = true) : a ≤ 255 ∧ b ≤ 255 ∧ 255 ∣ a * b ∧ 0 < a * b :=
  exceptions_bounds _ ((inE_iff_mem a b).1 h)

theorem dvd_of_inE {a b : Nat} (h : SpecTables.inE a b = true) : 255 ∣ a * b := by
  obtain ⟨-, -, hdvd, -⟩ := bounds_of_inE h
  exact hdvd

theorem inE_symm {a b : Nat} (h : SpecTables.inE a b = true) : SpecTables.inE b a = true :=
  exceptions_symmetric _ ((inE_iff_mem a b).1 h)

theorem inE_comm (a b : Nat) : SpecTables.inE a b = true ↔ SpecTables.inE b a = true := ⟨inE_symm, inE_symm⟩

theorem inE_two_mul {a : Nat} (h : 2 * a ≤ 255) (b : Nat) :
    SpecTables.inE (2 * a) b = true ↔ SpecTables.inE a b = true := by
  constructor
  · intro hE
    have hhalf := (exceptions_closed_under_doubling _ ((inE_iff_mem _ b).1 hE)).2 (dvd_mul_right 2 a)
    rwa [Nat.mul_div_cancel_left a (by decide)] at hhalf
  · exact fun hE => (exceptions_closed_under_doubling _ ((inE_iff_mem a b).1 hE)).1 h

/-! ## Where the scaled product falls short -/

/-- The scaled product is below the exact one. -/
def FallsShort (a b : Nat) : Prop := mulwScaled a b * 255 < a * b * 257 * 2 ^ 120

/-- E holds the pair exactly where the scaled product falls short. -/
def AgreesWithE (a b : Nat) : Prop := FallsShort a b ↔ SpecTables.inE a b = true

theorem fallsShort_comm (a b : Nat) : FallsShort a b ↔ FallsShort b a := by
  rw [FallsShort, FallsShort, mulwScaled_comm, Nat.mul_comm a]

theorem agreesWithE_comm (a b : Nat) : AgreesWithE a b ↔ AgreesWithE b a :=
  iff_congr (fallsShort_comm a b) (inE_comm a b)

theorem agreesWithE_zero_left (b : Nat) : AgreesWithE 0 b := by
  refine iff_of_false (by simp [FallsShort]) fun hE => ?_
  obtain ⟨-, -, -, hpos⟩ := bounds_of_inE hE
  simp at hpos

section
variable {a b : Nat} (ha : 2 * a ≤ 255) (hb : b ≤ 255) (ha0 : 0 < a)
include ha hb ha0

/-- Doubling an operand moves all four roundings by one place. -/
theorem mulwScaled_two_mul : mulwScaled (2 * a) b = 2 * mulwScaled a b := by
  have houtward : outward .w8 .f64 (2 * a) = outward .w8 .f64 a * 2 ^ 1 := by
    rw [outward, Nat.mul_comm 2, Nat.mul_right_comm]
    exact rneMag_mul_two_pow 1 (two_pow_le_mul_rcpSig .w8 .f64 ha0)
  have hproduct : mulwProduct (2 * a) b = mulwProduct a b * 2 ^ 1 := by
    rw [mulwProduct, houtward, Nat.mul_right_comm, rneMag_outward_mul (by omega) hb]
  rw [mulwScaled, hproduct, Nat.mul_right_comm, rneMag_mulwProduct_mul (by omega) hb, Nat.mul_comm, Nat.pow_one]

theorem agreesWithE_two_mul : AgreesWithE (2 * a) b ↔ AgreesWithE a b := by
  refine iff_congr ?_ (inE_two_mul ha b)
  rw [FallsShort, FallsShort, mulwScaled_two_mul ha hb ha0, Nat.mul_assoc 2 a]
  omega

end

theorem agreesWithE_two_pow_mul {a b : Nat} (hb : b ≤ 255) (ha0 : 0 < a) (i : Nat)
    (h : 2 ^ i * a ≤ 255) : AgreesWithE (2 ^ i * a) b ↔ AgreesWithE a b := by
  induction i with
  | zero => simp
  | succ i ih =>
    rw [Nat.pow_succ', Nat.mul_assoc] at h ⊢
    rw [agreesWithE_two_mul h hb (Nat.mul_pos (Nat.two_pow_pos i) ha0), ih (by omega)]

/-! ## Odd operands -/

/-- 255 divides a * b where b is a multiple of 255 / gcd(a, 255). -/
theorem dvd_mul_iff_div_gcd_dvd (a b : Nat) : 255 ∣ a * b ↔ 255 / Nat.gcd 255 a ∣ b := by
  have hpos : 0 < Nat.gcd 255 a := Nat.gcd_pos_of_pos_left a (by decide)
  have hcancel := Nat.mul_dvd_mul_iff_left (b := 255 / Nat.gcd 255 a) (c := b) hpos
  rwa [Nat.mul_div_cancel' (Nat.gcd_dvd_left 255 a), Nat.dvd_gcd_mul_iff_dvd_mul] at hcancel

/-- The pairs of odd operands whose product 255 divides, the smaller operand first. -/
def oddPairs : List (Nat × Nat) :=
  ((List.range 128).flatMap fun i =>
    (List.range ((Nat.gcd 255 (2 * i + 1) + 1) / 2)).map fun j =>
      (2 * i + 1, 255 / Nat.gcd 255 (2 * i + 1) * (2 * j + 1))).filter fun p => p.1 ≤ p.2

theorem mem_oddPairs {a b : Nat} (ha : Odd a) (hb : Odd b) (hle : a ≤ b) (hb' : b ≤ 255) (hdvd : 255 ∣ a * b) :
    (a, b) ∈ oddPairs := by
  obtain ⟨i, rfl⟩ := ha
  obtain ⟨k, rfl⟩ := (dvd_mul_iff_div_gcd_dvd _ _).1 hdvd
  obtain ⟨j, rfl⟩ := (Nat.odd_mul.1 hb).2
  have hpos : 0 < 255 / Nat.gcd 255 (2 * i + 1) := Nat.div_pos (Nat.gcd_le_left _ (by decide))
    (Nat.gcd_pos_of_pos_left _ (by decide))
  have hfactor : 255 / Nat.gcd 255 (2 * i + 1) * Nat.gcd 255 (2 * i + 1) = 255 :=
    Nat.div_mul_cancel (Nat.gcd_dvd_left 255 _)
  have hj : 2 * j + 1 ≤ Nat.gcd 255 (2 * i + 1) := Nat.le_of_mul_le_mul_left (hb'.trans_eq hfactor.symm) hpos
  simp only [oddPairs, List.mem_filter, List.mem_flatMap, List.mem_map, List.mem_range, decide_eq_true_eq]
  exact ⟨⟨i, by omega, j, by omega, rfl⟩, hle⟩

/-- The outcome of the four roundings on these pairs, evaluated. -/
theorem agreesWithE_oddPairs : ∀ p ∈ oddPairs, AgreesWithE p.1 p.2 := by
  unfold AgreesWithE FallsShort
  decide +kernel

theorem agreesWithE_of_odd {a b : Nat} (ha : Odd a) (hb : Odd b) (ha' : a ≤ 255) (hb' : b ≤ 255)
    (hdvd : 255 ∣ a * b) : AgreesWithE a b := by
  rcases Nat.le_total a b with hle | hle
  · exact agreesWithE_oddPairs (a, b) (mem_oddPairs ha hb hle hb' hdvd)
  · rw [agreesWithE_comm]
    exact agreesWithE_oddPairs (b, a) (mem_oddPairs hb ha hle ha' (by rwa [Nat.mul_comm]))

/-! ## The integer form -/

theorem mul_257_mod_ne_zero {n : Nat} (h : ¬ 255 ∣ n) : n * 257 % 255 ≠ 0 := fun hmod =>
  h (Nat.Coprime.dvd_of_dvd_mul_right (by decide) (Nat.dvd_of_mod_eq_zero hmod))

section
variable {a b : Nat} (ha : a ≤ 255) (hb : b ≤ 255)
include ha hb

theorem fallsShort_iff_inE (hdvd : 255 ∣ a * b) : FallsShort a b ↔ SpecTables.inE a b = true := by
  rw [← AgreesWithE]
  rcases Nat.eq_zero_or_pos a with rfl | ha0
  · exact agreesWithE_zero_left b
  rcases Nat.eq_zero_or_pos b with rfl | hb0
  · exact (agreesWithE_comm a 0).2 (agreesWithE_zero_left a)
  obtain ⟨i, c, hc, rfl⟩ := Nat.exists_eq_two_pow_mul_odd ha0.ne'
  obtain ⟨j, d, hd, rfl⟩ := Nat.exists_eq_two_pow_mul_odd hb0.ne'
  have hcle : c ≤ 255 := (Nat.le_mul_of_pos_left c (Nat.two_pow_pos i)).trans ha
  have hdle : d ≤ 255 := (Nat.le_mul_of_pos_left d (Nat.two_pow_pos j)).trans hb
  have hodd : 255 ∣ c * d := by
    rw [Nat.mul_mul_mul_comm, ← Nat.pow_add] at hdvd
    exact (Nat.Coprime.pow_right _ (by decide : Nat.Coprime 255 2)).dvd_of_dvd_mul_left hdvd
  rw [agreesWithE_two_pow_mul hb hc.pos i ha, agreesWithE_comm, agreesWithE_two_pow_mul hcle hd.pos j hb]
  exact agreesWithE_of_odd hd hc hdle hcle (by rwa [Nat.mul_comm])

/-- Where 255 does not divide a * b, the exact product is at least 1 / 255 away from the integers on either side of it,
and where it does, the scaled product is on one side of an integer or the other. -/
theorem resultOf_mulw_eq :
    resultOf .mulw a b = a * b * 257 / 255 - (if SpecTables.inE a b then 1 else 0) := by
  obtain ⟨hup, hdown⟩ := mulwScaled_near ha hb
  rw [resultOf_mulw ha hb]
  by_cases hdvd : 255 ∣ a * b
  · have hE := fallsShort_iff_inE ha hb hdvd
    obtain ⟨n, hn⟩ := hdvd
    rw [FallsShort, hn] at hE
    rw [hn] at hup hdown ⊢
    split_ifs with h
    · have := hE.2 h
      omega
    · have := mt hE.1 h
      omega
  · have hE : ¬ SpecTables.inE a b = true := mt dvd_of_inE hdvd
    have hrem := mul_257_mod_ne_zero hdvd
    rw [if_neg hE, Nat.sub_zero]
    have hsplit := Nat.div_add_mod (a * b * 257) 255
    have hlt := Nat.mod_lt (a * b * 257) (show 255 > 0 by decide)
    exact Nat.div_eq_of_lt_le (by omega) (by omega)

end

end Sys2Proof.Machine
end

section
/-! The integer form of MULW over the whole table, its laws, and the document's 0.5 x 0.5 case (R84 to R86). -/

namespace Sys2Proof.Machine

/-! ## All pairs of operands -/

/-- All pairs of operands, row by row. -/
def operandPairs : List (Nat × Nat) :=
  (List.range 256).flatMap fun a => (List.range 256).map fun b => (a, b)

theorem mem_operandPairs {p : Nat × Nat} : p ∈ operandPairs ↔ p.1 ≤ 255 ∧ p.2 ≤ 255 := by
  obtain ⟨a, b⟩ := p
  simp [operandPairs, Nat.lt_succ_iff]

theorem operandPairs_nodup : operandPairs.Nodup :=
  (List.nodup_range (n := 256)).product (List.nodup_range (n := 256))

theorem sum_operandPairs (g : Nat × Nat → Nat) :
    (operandPairs.map g).sum = ∑ a ∈ Finset.range 256, ∑ b ∈ Finset.range 256, g (a, b) := by
  have hset : operandPairs.toFinset = Finset.range 256 ×ˢ Finset.range 256 := by
    ext p
    simp [mem_operandPairs, Nat.lt_succ_iff]
  rw [← List.sum_toFinset g operandPairs_nodup, hset, Finset.sum_product]

theorem countP_eq_sum {α : Type} (l : List α) (q : α → Bool) : l.countP q = (l.map fun x => (q x).toNat).sum := by
  induction l with
  | nil => rfl
  | cons x l ih => cases hq : q x <;> simp [hq, ih, Nat.add_comm]

/-- Functions that differ by one where q holds have sums that differ by the count of q. -/
theorem sum_add_countP {α : Type} {l : List α} {q : α → Bool} {g g' : α → Nat}
    (h : ∀ x ∈ l, g x + (q x).toNat = g' x) : (l.map g).sum + l.countP q = (l.map g').sum := by
  rw [countP_eq_sum, ← List.sum_map_add, List.map_congr_left h]

theorem countP_operandPairs_inE : operandPairs.countP (fun p => SpecTables.inE p.1 p.2) = 280 := by
  have hperm : (operandPairs.filter fun p => SpecTables.inE p.1 p.2).Perm exceptions := by
    refine (List.perm_ext_iff_of_nodup (operandPairs_nodup.filter _) exceptions_nodup).2 fun p => ?_
    rw [List.mem_filter, inE_iff_mem, mem_operandPairs, and_iff_right_iff_imp]
    intro hp
    obtain ⟨ha, hb, -, -⟩ := exceptions_bounds p hp
    exact ⟨ha, hb⟩
  rw [List.countP_eq_length_filter, hperm.length_eq, exceptions_length]

/-! ## How often 255 divides the product -/

theorem sum_multiples_row (a : Nat) :
    ∑ b ∈ Finset.range 256, (decide (255 ∣ a * b)).toNat = Nat.gcd 255 a + 1 := by
  have hmultiples := Nat.card_multiples 255 (255 / Nat.gcd 255 a)
  rw [Nat.div_div_self (Nat.gcd_dvd_left 255 a) (by decide), Finset.card_filter] at hmultiples
  rw [Finset.sum_range_succ', ← hmultiples]
  simp [dvd_mul_iff_div_gcd_dvd, Bool.toNat, Bool.cond_decide]

theorem sum_multiples :
    ∑ a ∈ Finset.range 256, ∑ b ∈ Finset.range 256, (decide (255 ∣ a * b)).toNat = 1996 := by
  simp only [sum_multiples_row]
  decide +kernel

/-! ## The sum of the exact products -/

/-- b and 255 - b share 257 * a between them, less one where both products are truncated. -/
theorem floor_add_floor_reflect (a : Nat) {b : Nat} (hb : b ≤ 255) :
    a * b * 257 / 255 + a * (255 - b) * 257 / 255 + 1 = a * 257 + (decide (255 ∣ a * b)).toNat := by
  have hle := Nat.mul_le_mul_left a hb
  rw [Nat.mul_sub]
  by_cases hdvd : 255 ∣ a * b
  · simp only [hdvd, decide_true, Bool.toNat_true]
    omega
  · have hrem := mul_257_mod_ne_zero hdvd
    simp only [hdvd, decide_false, Bool.toNat_false]
    omega

theorem two_mul_sum_floors_row (a : Nat) : 2 * ∑ b ∈ Finset.range 256, a * b * 257 / 255 + 256 =
    256 * (a * 257) + ∑ b ∈ Finset.range 256, (decide (255 ∣ a * b)).toNat := by
  have hreflect := Finset.sum_range_reflect (fun b => a * b * 257 / 255) 256
  calc 2 * ∑ b ∈ Finset.range 256, a * b * 257 / 255 + 256
      = ∑ b ∈ Finset.range 256, (a * b * 257 / 255 + a * (255 - b) * 257 / 255 + 1) := by
        rw [Finset.sum_add_distrib, Finset.sum_add_distrib, hreflect, Finset.sum_const]
        simp [two_mul]
    _ = ∑ b ∈ Finset.range 256, (a * 257 + (decide (255 ∣ a * b)).toNat) :=
        Finset.sum_congr rfl fun b hb => floor_add_floor_reflect a (Nat.lt_succ_iff.1 (Finset.mem_range.1 hb))
    _ = _ := by rw [Finset.sum_add_distrib, Finset.sum_const, Finset.card_range, smul_eq_mul]

theorem two_mul_sum_floors (n : Nat) :
    2 * ∑ a ∈ Finset.range n, ∑ b ∈ Finset.range 256, a * b * 257 / 255 + n * 256 =
      256 * (n * (n - 1) / 2 * 257) + ∑ a ∈ Finset.range n, ∑ b ∈ Finset.range 256, (decide (255 ∣ a * b)).toNat := by
  calc
    _ = ∑ a ∈ Finset.range n, (2 * ∑ b ∈ Finset.range 256, a * b * 257 / 255 + 256) := by
      rw [Finset.sum_add_distrib, ← Finset.mul_sum, Finset.sum_const, Finset.card_range, smul_eq_mul]
    _ = ∑ a ∈ Finset.range n, (256 * (a * 257) + ∑ b ∈ Finset.range 256, (decide (255 ∣ a * b)).toNat) :=
      Finset.sum_congr rfl fun a _ => two_mul_sum_floors_row a
    _ = _ := by rw [Finset.sum_add_distrib, ← Finset.mul_sum, ← Finset.sum_mul, Finset.sum_range_id]

theorem sum_floors : ∑ a ∈ Finset.range 256, ∑ b ∈ Finset.range 256, a * b * 257 / 255 = 1073693390 + 280 := by
  have h := two_mul_sum_floors 256
  rw [sum_multiples] at h
  generalize ∑ a ∈ Finset.range 256, ∑ b ∈ Finset.range 256, a * b * 257 / 255 = total at h ⊢
  omega

/-! ## The integer form and the laws (R84, R85) -/

theorem sum_resultOf_mulw : (operandPairs.map fun p => resultOf .mulw p.1 p.2).sum +
    operandPairs.countP (fun p => SpecTables.inE p.1 p.2) = (operandPairs.map fun p => p.1 * p.2 * 257 / 255).sum := by
  refine sum_add_countP fun p hp => ?_
  obtain ⟨ha, hb⟩ := mem_operandPairs.1 hp
  rw [resultOf_mulw_eq ha hb]
  cases hE : SpecTables.inE p.1 p.2 with
  | false => rfl
  | true =>
    obtain ⟨-, -, hdvd, hpos⟩ := bounds_of_inE hE
    have := Nat.le_of_dvd hpos hdvd
    simp only [if_true, Bool.toNat_true]
    omega

/-- Settles O44: the roundings move MULW off the truncated exact product only on E, whose facts are read off its table,
and the exact products sum up row by row. -/
theorem mulwIntegerForm : Obligations.MulwIntegerForm := by
  refine ⟨fun a b ha hb => resultOf_mulw_eq ha hb, fun a b hE => ?table, countP_operandPairs_inE, ?multiples,
    ?sumMulw, ?sumFloors⟩
  case table =>
    obtain ⟨ha, hb, hdvd, -⟩ := bounds_of_inE hE
    exact ⟨ha, hb, hdvd, inE_symm hE⟩
  case multiples =>
    change operandPairs.countP _ = _
    rw [countP_eq_sum, sum_operandPairs, ← sum_multiples]
    simp only [Nat.dvd_iff_mod_eq_zero]
    rfl
  case sumFloors => exact (sum_operandPairs _).trans sum_floors
  case sumMulw =>
    have h := sum_resultOf_mulw
    rw [countP_operandPairs_inE, sum_operandPairs fun p => p.1 * p.2 * 257 / 255, sum_floors] at h
    exact Nat.add_right_cancel h

section
variable {a b : Nat} (ha : a ≤ 255) (hb : b ≤ 255)
include ha hb

theorem resultOf_mulw_comm : resultOf .mulw a b = resultOf .mulw b a := by
  rw [resultOf_mulw ha hb, resultOf_mulw hb ha, mulwScaled_comm]

/-- A larger second operand adds at least 257 / 255 to the exact product, which so reaches the next integer. Where one
is taken off, the larger product is an integer, and the smaller one truncates to at least two less. -/
theorem resultOf_mulw_lt {b' : Nat} (ha0 : 1 ≤ a) (hlt : b < b') (hb' : b' ≤ 255) :
    resultOf .mulw a b < resultOf .mulw a b' := by
  have hstep : a * b < a * b' := Nat.mul_lt_mul_of_pos_left hlt ha0
  rw [resultOf_mulw_eq ha hb, resultOf_mulw_eq ha hb']
  refine (Nat.sub_le _ _).trans_lt ?_
  split_ifs with hE
  · obtain ⟨n, hn⟩ := dvd_of_inE hE
    omega
  · omega

theorem resultOf_mulw_eq_max_iff : resultOf .mulw a b = 65535 ↔ a = 255 ∧ b = 255 := by
  rw [resultOf_mulw_eq ha hb]
  constructor
  · intro h
    have hmax : 65025 ≤ a * b := by
      have := Nat.sub_le (a * b * 257 / 255) (if SpecTables.inE a b then 1 else 0)
      omega
    have hle := Nat.mul_le_mul_left a hb
    have hle' := Nat.mul_le_mul_right b ha
    omega
  · rintro ⟨rfl, rfl⟩
    decide

end

theorem resultOf_mulw_zero_left {b : Nat} (hb : b ≤ 255) : resultOf .mulw 0 b = 0 := by
  rw [resultOf_mulw (Nat.zero_le _) hb, mulwScaled_zero_left, Nat.zero_div]

/-- Settles O45: the laws of the integer form. -/
theorem mulwLaws : Obligations.MulwLaws := by
  intro a b ha hb
  have hzero := Nat.zero_le 255
  refine ⟨resultOf_mulw_comm ha hb, resultOf_mulw_zero_left hb, ?zeroRight, fun b' hlt hb' => ⟨?mono, fun ha0 =>
    resultOf_mulw_lt ha hb ha0 hlt hb'⟩, resultOf_mulw_eq_max_iff ha hb, ?one⟩
  case zeroRight => exact (resultOf_mulw_comm ha hzero).trans (resultOf_mulw_zero_left ha)
  case mono =>
    rcases Nat.eq_zero_or_pos a with rfl | ha0
    · rw [resultOf_mulw_zero_left hb]
      exact Nat.zero_le _
    · exact (resultOf_mulw_lt ha hb ha0 hlt hb').le
  case one =>
    have hexact : 255 * b * 257 / 255 = b * 257 := by omega
    rw [resultOf_mulw_eq le_rfl hb, resultOf_widen hb, hexact]

/-! ## 0.5 x 0.5 (R86) -/

/-- Settles O46: the model run on 0.5 and on 16255, and the integer form at (127, 127). -/
theorem halfTimesHalf : Obligations.HalfTimesHalf := by
  refine ⟨?half, ?product, ?f64, ?f32, ?exact⟩
  case half => decide +kernel
  case product =>
    rw [resultOf_mulw_eq (by decide) (by decide)]
    decide +kernel
  case f64 => decide +kernel
  case f32 => decide +kernel
  case exact => norm_num [Int.floor_eq_iff]

end Sys2Proof.Machine
end

section
/-! Illegal commands: the answer in its place, and the fault on the host's record (R88 to R91). -/

namespace Sys2Proof.Machine

theorem wellFormed_of_decode_error {cmd : Cmd} {k : IllegalClass} (h : decode cmd = .error k) :
    (cmdFields cmd).wellFormed = false := by
  simp [CmdFields.wellFormed, (decode_eq_error_iff cmd k).1 h]

/-! ## The response and the events of an illegal request -/

theorem execResponse_of_illegal {r : Request} {k : IllegalClass} (h : decode r.cmd = .error k) :
    execResponse r = { res := 0, err := true } := by
  simp [execResponse, illegalResponse, h]

theorem requestEvents_of_legal {r : Request} {i : Instr} (h : decode r.cmd = .ok i) :
    requestEvents r = [.accepted r] := by
  simp [requestEvents, h]

theorem requestEvents_of_illegal {r : Request} {k : IllegalClass} (h : decode r.cmd = .error k) :
    requestEvents r = [.programFault .illegalCommand, .accepted r] := by
  simp [requestEvents, h]

/-- Settles O19: accepting a word that does not decode puts the illegal command's response at the end of `Q`. -/
theorem stepAnswersIllegalCommand : Obligations.StepAnswersIllegalCommand := by
  intro s k hd ht hc
  obtain ⟨hp, hr, -⟩ := (reqTransfers_iff s).1 ht
  obtain ⟨t, hst, he⟩ := exists_runningEdge hr hp hd
  have hillegal : decode s.pins.request.cmd = .error k := hc
  refine ⟨t, hst, ?_, ?_, he.phase⟩
  · simp [he.q, entered, ht, execResponse_of_illegal hillegal]
  · simp [he.trace, edgeEvents, ht, requestEvents_of_illegal hillegal, responseSide_trace]

/-! ## Counting faults and illegal requests -/

theorem programFaultsIn_append (l l' : List Event) :
    programFaultsIn (l ++ l') = programFaultsIn l + programFaultsIn l' :=
  List.count_append

theorem illegalRequests_append (rs rs' : List Request) :
    illegalRequests (rs ++ rs') = illegalRequests rs ++ illegalRequests rs' :=
  List.filter_append rs rs'

/-- A request puts a fault on record exactly if its word is illegal. -/
theorem programFaultsIn_requestEvents (r : Request) :
    programFaultsIn (requestEvents r) = (illegalRequests [r]).length := by
  cases h : decode r.cmd with
  | ok i => simp [requestEvents_of_legal h, illegalRequests, wellFormed_of_decode h]
  | error k => simp [requestEvents_of_illegal h, illegalRequests, wellFormed_of_decode_error h]

theorem programFaultsIn_delivered_only (rs : List Response) : programFaultsIn (rs.map .delivered) = 0 := by
  simp [programFaultsIn, List.count_eq_zero]

/-- An edge puts one fault on record for the illegal request it accepts, if any, and no other. -/
theorem programFaultsIn_edgeEvents (s : State) :
    programFaultsIn (edgeEvents s) = (illegalRequests (taken s)).length := by
  rw [edgeEvents, programFaultsIn_append, programFaultsIn_delivered_only, Nat.add_zero]
  cases ht : reqTransfers s with
  | true => simp [ht, programFaultsIn_requestEvents]
  | false => simp [ht, illegalRequests]

/-- Settles O32: a reset starts both counts anew, and an edge without reset adds the same to both. -/
theorem stepKeepsFaultsOnRecord : Obligations.StepKeepsFaultsOnRecord := by
  intro s t hs hst hpt
  obtain ⟨-, rfl⟩ | ⟨-, hp, rfl⟩ | he := step_next_cases hst
  · simp [illegalRequests]
  · simp [hp] at hpt
  · calc programFaultsIn (sinceReset t.trace)
        = (illegalRequests (taken s)).length + programFaultsIn (sinceReset s.trace) := by
          rw [he.trace, sinceReset_edgeEvents, programFaultsIn_append, programFaultsIn_edgeEvents]
      _ = (illegalRequests (acceptedIn (sinceReset s.trace))).length + (illegalRequests (taken s)).length := by
          rw [hs he.running, Nat.add_comm]
      _ = (illegalRequests (acceptedIn (sinceReset t.trace))).length := by
          rw [he.acceptedIn_sinceReset, illegalRequests_append, List.length_append]

end Sys2Proof.Machine
end

section
/-! Edges with rst = 1: one of them, and a run of them (R102 to R104). -/

namespace Sys2Proof.Machine

/-- After a reset edge no response is offered, whatever the host drives next: `Q` is empty (R32). -/
theorem rspValid_resetEdge (s : State) : rspValid (resetEdge s) = false := by
  obtain ⟨-, -, hempty, -⟩ := outputsFollowQueue (resetEdge s) rfl
  exact hempty rfl

/-- Settles O23: rst = 1 keeps both channels from transferring, and the step is the reset edge, whose one event starts
the history since the reset anew. -/
theorem resetEdgeEmptiesQueue : Obligations.ResetEdgeEmptiesQueue := by
  intro s hr
  obtain ⟨hreq, hrsp⟩ := no_transfers (s := s) (by simp [hr])
  exact ⟨hreq, hrsp, resetEdge s, step_reset hr, rfl, rfl, rspValid_resetEdge s, by simp, by simp, by simp, by simp⟩

/-- Settles O24, by induction on the number of further edges: the last of them is a reset edge like the first (O23), and
each one before it delivers nothing and leads to a state with rst = 1 and one drive less to come. -/
theorem longResetSameAsShort : Obligations.LongResetSameAsShort := by
  intro n
  induction n with
  | zero =>
    intro s hr _ _
    obtain ⟨-, -, t, hst, hq, hp, hv, -, hdel, -⟩ := resetEdgeEmptiesQueue s hr
    exact ⟨t, runEdges_of_next 0 hst, hq, hp, hv, hdel⟩
  | succ n ih =>
    intro s hr hlen hrst
    cases hup : s.upcoming with
    | nil => simp [hup] at hlen
    | cons p rest =>
      rw [hup, List.length_cons, Nat.add_le_add_iff_right] at hlen
      rw [hup, List.take_succ_cons, List.forall_mem_cons] at hrst
      obtain ⟨hrp, hrest⟩ := hrst
      have hnext : advancePins s false = (p, rest) := advancePins_cons hup false
      obtain ⟨t, hrun, hq, hp, hv, hdel⟩ := ih (resetEdge s) (by simpa [hnext]) (by simpa [hnext]) (by simpa [hnext])
      exact ⟨t, (runEdges_of_next (n + 1) (step_reset hr)).trans hrun, hq, hp, hv, by simpa using hdel⟩

end Sys2Proof.Machine
end
